-- ==== Sys2Proof/Word.lean ====
section
/-! DEFINITION. The two word types of the core: 00_scope.md rule R6 fixes a data width of 8 bits and an address width of 16. -/

namespace Sys2Proof

/-- A register of 8 bits or one memory cell (R6, R20, R50). -/
abbrev Byte := BitVec 8

/-- A 16-bit bus address, and the width of PC (R6, R22, R50). -/
abbrev Addr := BitVec 16

end Sys2Proof
end

