-- ==== Sys2Proof/Machine/Bits.lean ====
section
/-! DEFINITION. Bit fields, extension and byte order: the notation of 00_scope.md rules R7 and R8, the little-endian rule
R53 of 20_memory.md and the operand assembly of 30_encoding.md R93. -/

namespace Sys2Proof.Machine

/-- `zext_16(v)` (R8). -/
def zext16 (v : Byte) : Addr := v.setWidth 16

/-- `sext_16(v)` (R8). -/
def sext16 (v : Byte) : Addr := v.signExtend 16

/-- `page(a) = a[15:8]`, the high byte of an address (R8). -/
def page (a : Addr) : Byte := a.extractLsb' 8 8

/-- `a[7:0]`, the low byte of an address (R7). -/
def lowByte (a : Addr) : Byte := a.extractLsb' 0 8

/-- `hi8:lo8`, the 16-bit concatenation `hi8*256 + lo8` (R7). -/
def hiLo (hi lo : Byte) : Addr := hi ++ lo

/-- The two bytes of a 16-bit quantity in memory order, low byte at the lower address (R53). -/
def littleEndian (a : Addr) : List Byte := [lowByte a, page a]

/-- The bytes of an instruction numbered as the opcode table numbers its bits: the first byte is bits 7..0 of `w`, the
next bits 15..8, the third bits 23..16; the bits above `nbits` are zero, up to the longest instruction (3 bytes, R90). -/
def tableBytes (nbits w : Nat) : List Byte :=
  let v := w % 2 ^ nbits
  [BitVec.ofNat 8 v, BitVec.ofNat 8 (v / 256), BitVec.ofNat 8 (v / 65536)]

end Sys2Proof.Machine
end

