-- ==== Sys2Proof/Syntax.lean ====
section
/-! DEFINITION. The syntax: the 56 mnemonics and 13 addressing modes (30_encoding.md R91, R95), the operand forms
(40_addressing_modes.md R121 to R133), the rows of the InstructionTable (R94), and the instructions, one constructor per row of
spec/opcode_table.json in the order of R96. Operands are typed by their width (R93); every value of them is legal (R97). -/

namespace Sys2Proof

/-- The 56 mnemonics (R95), by instruction file. -/
inductive Mnemonic where
  | adc | sbc | cmp | cpx | cpy
  | asl | lsr | rol | ror
  | jmp | jsr | rts | bcc | bcs | beq | bne | bmi | bpl | bvc | bvs
  | brk | rti | pha | php | pla | plp
  | lda | ldx | ldy | sta | stx | sty | tax | tay | txa | tya | tsx | txs
  | and | ora | eor | bit | inc | dec | inx | iny | dex | dey | clc | sec | cli | sei | clv | cld | sed | nop
deriving DecidableEq, Repr

/-- The thirteen formats, one per addressing mode (R91). -/
inductive Mode where
  | imp | acc | imm | zp | zpx | zpy | rel | indx | indy | abs | absx | absy | ind
deriving DecidableEq, Repr

/-- An operand in memory: the modes that have an effective address (R124 to R131). -/
inductive MemOperand where
  | zp (zp : Byte)      -- ZeroPage, R124
  | zpX (zp : Byte)     -- ZeroPageX, R125
  | zpY (zp : Byte)     -- ZeroPageY, R126
  | abs (abs : Addr)    -- Absolute, R127
  | absX (abs : Addr)   -- AbsoluteX, R128
  | absY (abs : Addr)   -- AbsoluteY, R129
  | indX (zp : Byte)    -- IndirectX, R130
  | indY (zp : Byte)    -- IndirectY, R131
deriving DecidableEq, Repr

/-- The operand forms (R91, R93). -/
inductive Operand where
  | implied                -- R121
  | accumulator            -- R122
  | imm (imm : Byte)       -- R123
  | mem (m : MemOperand)   -- R124 to R131; JMP and JSR absolute jump to this address
  | ind (ptr : Addr)       -- Indirect, R133
  | rel (disp : Byte)      -- Relative, R132
deriving DecidableEq, Repr

/-- One row of the InstructionTable (R94, R96). -/
structure TableRow where
  opcode    : Byte
  mnemonic  : Mnemonic
  mode      : Mode
  bytes     : Nat    -- instruction length, 1 to 3
  base      : Nat    -- base cycles
  pageCross : Bool   -- takes the read-path page-cross cycle (R137)
deriving DecidableEq, Repr

/-- The InstructionTable, a parameter of the core (R6, R94): the rows that a lookup searches in order. -/
abbrev InstructionTable := List TableRow

/-- What an instruction is, whatever its opcode: its mnemonic and the operand it carries (R90, R93). -/
structure Descriptor where
  mnemonic : Mnemonic
  operand  : Operand
deriving DecidableEq, Repr

/-- The 151 instructions (R95, R96). -/
inductive Instr where
  | adcImm (imm : Byte)     -- 69  ADC #$nn
  | adcZp (zp : Byte)       -- 65  ADC $nn
  | adcZpX (zp : Byte)      -- 75  ADC $nn,X
  | adcAbs (abs : Addr)     -- 6D  ADC $nnnn
  | adcAbsX (abs : Addr)    -- 7D  ADC $nnnn,X
  | adcAbsY (abs : Addr)    -- 79  ADC $nnnn,Y
  | adcIndX (zp : Byte)     -- 61  ADC ($nn,X)
  | adcIndY (zp : Byte)     -- 71  ADC ($nn),Y
  | sbcImm (imm : Byte)     -- E9  SBC #$nn
  | sbcZp (zp : Byte)       -- E5  SBC $nn
  | sbcZpX (zp : Byte)      -- F5  SBC $nn,X
  | sbcAbs (abs : Addr)     -- ED  SBC $nnnn
  | sbcAbsX (abs : Addr)    -- FD  SBC $nnnn,X
  | sbcAbsY (abs : Addr)    -- F9  SBC $nnnn,Y
  | sbcIndX (zp : Byte)     -- E1  SBC ($nn,X)
  | sbcIndY (zp : Byte)     -- F1  SBC ($nn),Y
  | cmpImm (imm : Byte)     -- C9  CMP #$nn
  | cmpZp (zp : Byte)       -- C5  CMP $nn
  | cmpZpX (zp : Byte)      -- D5  CMP $nn,X
  | cmpAbs (abs : Addr)     -- CD  CMP $nnnn
  | cmpAbsX (abs : Addr)    -- DD  CMP $nnnn,X
  | cmpAbsY (abs : Addr)    -- D9  CMP $nnnn,Y
  | cmpIndX (zp : Byte)     -- C1  CMP ($nn,X)
  | cmpIndY (zp : Byte)     -- D1  CMP ($nn),Y
  | cpxImm (imm : Byte)     -- E0  CPX #$nn
  | cpxZp (zp : Byte)       -- E4  CPX $nn
  | cpxAbs (abs : Addr)     -- EC  CPX $nnnn
  | cpyImm (imm : Byte)     -- C0  CPY #$nn
  | cpyZp (zp : Byte)       -- C4  CPY $nn
  | cpyAbs (abs : Addr)     -- CC  CPY $nnnn
  | aslAcc                  -- 0A  ASL A
  | aslZp (zp : Byte)       -- 06  ASL $nn
  | aslZpX (zp : Byte)      -- 16  ASL $nn,X
  | aslAbs (abs : Addr)     -- 0E  ASL $nnnn
  | aslAbsX (abs : Addr)    -- 1E  ASL $nnnn,X
  | lsrAcc                  -- 4A  LSR A
  | lsrZp (zp : Byte)       -- 46  LSR $nn
  | lsrZpX (zp : Byte)      -- 56  LSR $nn,X
  | lsrAbs (abs : Addr)     -- 4E  LSR $nnnn
  | lsrAbsX (abs : Addr)    -- 5E  LSR $nnnn,X
  | rolAcc                  -- 2A  ROL A
  | rolZp (zp : Byte)       -- 26  ROL $nn
  | rolZpX (zp : Byte)      -- 36  ROL $nn,X
  | rolAbs (abs : Addr)     -- 2E  ROL $nnnn
  | rolAbsX (abs : Addr)    -- 3E  ROL $nnnn,X
  | rorAcc                  -- 6A  ROR A
  | rorZp (zp : Byte)       -- 66  ROR $nn
  | rorZpX (zp : Byte)      -- 76  ROR $nn,X
  | rorAbs (abs : Addr)     -- 6E  ROR $nnnn
  | rorAbsX (abs : Addr)    -- 7E  ROR $nnnn,X
  | jmpAbs (abs : Addr)     -- 4C  JMP $nnnn
  | jmpInd (ptr : Addr)     -- 6C  JMP ($nnnn)
  | jsr (abs : Addr)        -- 20  JSR $nnnn
  | rts                     -- 60  RTS
  | bcc (disp : Byte)       -- 90  BCC rel
  | bcs (disp : Byte)       -- B0  BCS rel
  | beq (disp : Byte)       -- F0  BEQ rel
  | bne (disp : Byte)       -- D0  BNE rel
  | bmi (disp : Byte)       -- 30  BMI rel
  | bpl (disp : Byte)       -- 10  BPL rel
  | bvc (disp : Byte)       -- 50  BVC rel
  | bvs (disp : Byte)       -- 70  BVS rel
  | brk                     -- 00  BRK
  | rti                     -- 40  RTI
  | pha                     -- 48  PHA
  | php                     -- 08  PHP
  | pla                     -- 68  PLA
  | plp                     -- 28  PLP
  | ldaImm (imm : Byte)     -- A9  LDA #$nn
  | ldaZp (zp : Byte)       -- A5  LDA $nn
  | ldaZpX (zp : Byte)      -- B5  LDA $nn,X
  | ldaAbs (abs : Addr)     -- AD  LDA $nnnn
  | ldaAbsX (abs : Addr)    -- BD  LDA $nnnn,X
  | ldaAbsY (abs : Addr)    -- B9  LDA $nnnn,Y
  | ldaIndX (zp : Byte)     -- A1  LDA ($nn,X)
  | ldaIndY (zp : Byte)     -- B1  LDA ($nn),Y
  | ldxImm (imm : Byte)     -- A2  LDX #$nn
  | ldxZp (zp : Byte)       -- A6  LDX $nn
  | ldxZpY (zp : Byte)      -- B6  LDX $nn,Y
  | ldxAbs (abs : Addr)     -- AE  LDX $nnnn
  | ldxAbsY (abs : Addr)    -- BE  LDX $nnnn,Y
  | ldyImm (imm : Byte)     -- A0  LDY #$nn
  | ldyZp (zp : Byte)       -- A4  LDY $nn
  | ldyZpX (zp : Byte)      -- B4  LDY $nn,X
  | ldyAbs (abs : Addr)     -- AC  LDY $nnnn
  | ldyAbsX (abs : Addr)    -- BC  LDY $nnnn,X
  | staZp (zp : Byte)       -- 85  STA $nn
  | staZpX (zp : Byte)      -- 95  STA $nn,X
  | staAbs (abs : Addr)     -- 8D  STA $nnnn
  | staAbsX (abs : Addr)    -- 9D  STA $nnnn,X
  | staAbsY (abs : Addr)    -- 99  STA $nnnn,Y
  | staIndX (zp : Byte)     -- 81  STA ($nn,X)
  | staIndY (zp : Byte)     -- 91  STA ($nn),Y
  | stxZp (zp : Byte)       -- 86  STX $nn
  | stxZpY (zp : Byte)      -- 96  STX $nn,Y
  | stxAbs (abs : Addr)     -- 8E  STX $nnnn
  | styZp (zp : Byte)       -- 84  STY $nn
  | styZpX (zp : Byte)      -- 94  STY $nn,X
  | styAbs (abs : Addr)     -- 8C  STY $nnnn
  | tax                     -- AA  TAX
  | tay                     -- A8  TAY
  | txa                     -- 8A  TXA
  | tya                     -- 98  TYA
  | tsx                     -- BA  TSX
  | txs                     -- 9A  TXS
  | andImm (imm : Byte)     -- 29  AND #$nn
  | andZp (zp : Byte)       -- 25  AND $nn
  | andZpX (zp : Byte)      -- 35  AND $nn,X
  | andAbs (abs : Addr)     -- 2D  AND $nnnn
  | andAbsX (abs : Addr)    -- 3D  AND $nnnn,X
  | andAbsY (abs : Addr)    -- 39  AND $nnnn,Y
  | andIndX (zp : Byte)     -- 21  AND ($nn,X)
  | andIndY (zp : Byte)     -- 31  AND ($nn),Y
  | oraImm (imm : Byte)     -- 09  ORA #$nn
  | oraZp (zp : Byte)       -- 05  ORA $nn
  | oraZpX (zp : Byte)      -- 15  ORA $nn,X
  | oraAbs (abs : Addr)     -- 0D  ORA $nnnn
  | oraAbsX (abs : Addr)    -- 1D  ORA $nnnn,X
  | oraAbsY (abs : Addr)    -- 19  ORA $nnnn,Y
  | oraIndX (zp : Byte)     -- 01  ORA ($nn,X)
  | oraIndY (zp : Byte)     -- 11  ORA ($nn),Y
  | eorImm (imm : Byte)     -- 49  EOR #$nn
  | eorZp (zp : Byte)       -- 45  EOR $nn
  | eorZpX (zp : Byte)      -- 55  EOR $nn,X
  | eorAbs (abs : Addr)     -- 4D  EOR $nnnn
  | eorAbsX (abs : Addr)    -- 5D  EOR $nnnn,X
  | eorAbsY (abs : Addr)    -- 59  EOR $nnnn,Y
  | eorIndX (zp : Byte)     -- 41  EOR ($nn,X)
  | eorIndY (zp : Byte)     -- 51  EOR ($nn),Y
  | bitZp (zp : Byte)       -- 24  BIT $nn
  | bitAbs (abs : Addr)     -- 2C  BIT $nnnn
  | incZp (zp : Byte)       -- E6  INC $nn
  | incZpX (zp : Byte)      -- F6  INC $nn,X
  | incAbs (abs : Addr)     -- EE  INC $nnnn
  | incAbsX (abs : Addr)    -- FE  INC $nnnn,X
  | decZp (zp : Byte)       -- C6  DEC $nn
  | decZpX (zp : Byte)      -- D6  DEC $nn,X
  | decAbs (abs : Addr)     -- CE  DEC $nnnn
  | decAbsX (abs : Addr)    -- DE  DEC $nnnn,X
  | inx                     -- E8  INX
  | iny                     -- C8  INY
  | dex                     -- CA  DEX
  | dey                     -- 88  DEY
  | clc                     -- 18  CLC
  | sec                     -- 38  SEC
  | cli                     -- 58  CLI
  | sei                     -- 78  SEI
  | clv                     -- B8  CLV
  | cld                     -- D8  CLD
  | sed                     -- F8  SED
  | nop                     -- EA  NOP
deriving DecidableEq, Repr

end Sys2Proof
end

