-- ==== Sys2Proof/WellFormed.lean ====
section
/-! DEFINITION. What makes an instruction, a row of the InstructionTable and a table well formed (30_encoding.md R92, R94;
40_addressing_modes.md R137, R138; 00_scope.md R6). The operands of an `Instr` are typed by their width and every value of them
is legal (30_encoding.md R97), so an instruction is well formed when its mnemonic has its mode. -/

namespace Sys2Proof

/-- The length of each format in bytes (R91, R92). -/
def Mode.length : Mode → Nat
  | .imp | .acc => 1
  | .imm | .zp | .zpx | .zpy | .rel | .indx | .indy => 2
  | .abs | .absx | .absy | .ind => 3

/-- Which mode each form of an operand has (R91). -/
def MemOperand.mode : MemOperand → Mode
  | .zp _ => .zp
  | .zpX _ => .zpx
  | .zpY _ => .zpy
  | .abs _ => .abs
  | .absX _ => .absx
  | .absY _ => .absy
  | .indX _ => .indx
  | .indY _ => .indy

/-- Which mode each form of an operand has (R91). -/
def Operand.mode : Operand → Mode
  | .implied => .imp
  | .accumulator => .acc
  | .imm _ => .imm
  | .mem m => m.mode
  | .ind _ => .ind
  | .rel _ => .rel

/-- The path column of R138. -/
inductive Path where
  | read | write | modify | control | none
deriving DecidableEq, Repr

/-- R138: on which path each mnemonic uses its operand. -/
def Mnemonic.path : Mnemonic → Path
  | .adc | .and | .cmp | .eor | .lda | .ora | .sbc | .ldx | .ldy | .cpx | .cpy | .bit => .read
  | .sta | .stx | .sty => .write
  | .asl | .lsr | .rol | .ror | .inc | .dec => .modify
  | .jmp | .jsr | .bcc | .bcs | .beq | .bne | .bmi | .bpl | .bvc | .bvs => .control
  | .brk | .rti | .rts | .pha | .php | .pla | .plp | .tax | .tay | .txa | .tya | .tsx | .txs
  | .inx | .iny | .dex | .dey | .clc | .sec | .cli | .sei | .clv | .cld | .sed | .nop => .none

/-- R138: the modes each mnemonic has ("a pair not listed has no opcode and cannot be encoded"). -/
def Mnemonic.modes : Mnemonic → List Mode
  | .adc | .and | .cmp | .eor | .lda | .ora | .sbc => [.imm, .zp, .zpx, .abs, .absx, .absy, .indx, .indy]
  | .ldx => [.imm, .zp, .zpy, .abs, .absy]
  | .ldy => [.imm, .zp, .zpx, .abs, .absx]
  | .cpx | .cpy => [.imm, .zp, .abs]
  | .bit => [.zp, .abs]
  | .sta => [.zp, .zpx, .abs, .absx, .absy, .indx, .indy]
  | .stx => [.zp, .zpy, .abs]
  | .sty => [.zp, .zpx, .abs]
  | .asl | .lsr | .rol | .ror => [.acc, .zp, .zpx, .abs, .absx]
  | .inc | .dec => [.zp, .zpx, .abs, .absx]
  | .jmp => [.abs, .ind]
  | .jsr => [.abs]
  | .bcc | .bcs | .beq | .bne | .bmi | .bpl | .bvc | .bvs => [.rel]
  | .brk | .rti | .rts | .pha | .php | .pla | .plp | .tax | .tay | .txa | .tya | .tsx | .txs
  | .inx | .iny | .dex | .dey | .clc | .sec | .cli | .sei | .clv | .cld | .sed | .nop => [.imp]

/-- R137: the read-path page-cross cycle is for the read path in AbsoluteX, AbsoluteY and IndirectY. -/
def Mnemonic.paysPageCross (mn : Mnemonic) (mode : Mode) : Bool :=
  mn.path == .read && [Mode.absx, .absy, .indy].contains mode

/-- R138: the mnemonic has the mode of the operand. -/
def Descriptor.modeOk (d : Descriptor) : Bool := d.mnemonic.modes.contains d.operand.mode

/-- R138: the row's mnemonic has its mode. -/
def TableRow.modeOk (r : TableRow) : Bool := r.mnemonic.modes.contains r.mode

/-- R94: the row's `bytes` field equals the length of its format (R92). -/
def TableRow.lengthOk (r : TableRow) : Bool := r.bytes == r.mode.length

/-- R137: the row takes the page-cross cycle exactly where the rule says. -/
def TableRow.penaltyOk (r : TableRow) : Bool := r.pageCross == r.mnemonic.paysPageCross r.mode

/-- A well-formed row of the InstructionTable. -/
def TableRow.wellFormed (r : TableRow) : Bool := r.modeOk && r.lengthOk && r.penaltyOk

/-- R94: the lookup is a function of the opcode: no opcode has two rows. -/
def InstructionTable.opcodesDistinct (t : InstructionTable) : Bool := decide (t.map TableRow.opcode).Nodup

/-- R6: `base_cycles(RTI)` equals `base_cycles(BRK)`. -/
def InstructionTable.rtiCostsBrk (t : InstructionTable) : Bool :=
  (t.filter (·.mnemonic == .rti)).all fun r => (t.filter (·.mnemonic == .brk)).all fun q => r.base == q.base

/-- A well-formed InstructionTable. -/
def InstructionTable.wellFormed (t : InstructionTable) : Bool :=
  t.all TableRow.wellFormed && InstructionTable.opcodesDistinct t && InstructionTable.rtiCostsBrk t

end Sys2Proof
end

