-- ==== Sys2Proof/Decode.lean ====
section
/-! DEFINITION. The spec's default InstructionTable (30_encoding.md R95, R96; PRESUMED, log 1), the lookup in any table (R94), the
decoder, total on any bytes and rejecting by name (R92, R97), and the encoder written from the same table (R91, R93). -/

namespace Sys2Proof

open Sys2Proof.Machine (hiLo littleEndian tableBytes)

/-! ### The default table -/

/-- The rows of R96 for 41_arithmetic_compare.md: opcode, mnemonic, mode, bytes, base cycles, page-cross penalty. -/
def arithRows : InstructionTable :=
  [⟨0x69, .adc, .imm, 2, 2, false⟩,
   ⟨0x65, .adc, .zp, 2, 3, false⟩,
   ⟨0x75, .adc, .zpx, 2, 4, false⟩,
   ⟨0x6D, .adc, .abs, 3, 4, false⟩,
   ⟨0x7D, .adc, .absx, 3, 4, true⟩,
   ⟨0x79, .adc, .absy, 3, 4, true⟩,
   ⟨0x61, .adc, .indx, 2, 6, false⟩,
   ⟨0x71, .adc, .indy, 2, 5, true⟩,
   ⟨0xE9, .sbc, .imm, 2, 2, false⟩,
   ⟨0xE5, .sbc, .zp, 2, 3, false⟩,
   ⟨0xF5, .sbc, .zpx, 2, 4, false⟩,
   ⟨0xED, .sbc, .abs, 3, 4, false⟩,
   ⟨0xFD, .sbc, .absx, 3, 4, true⟩,
   ⟨0xF9, .sbc, .absy, 3, 4, true⟩,
   ⟨0xE1, .sbc, .indx, 2, 6, false⟩,
   ⟨0xF1, .sbc, .indy, 2, 5, true⟩,
   ⟨0xC9, .cmp, .imm, 2, 2, false⟩,
   ⟨0xC5, .cmp, .zp, 2, 3, false⟩,
   ⟨0xD5, .cmp, .zpx, 2, 4, false⟩,
   ⟨0xCD, .cmp, .abs, 3, 4, false⟩,
   ⟨0xDD, .cmp, .absx, 3, 4, true⟩,
   ⟨0xD9, .cmp, .absy, 3, 4, true⟩,
   ⟨0xC1, .cmp, .indx, 2, 6, false⟩,
   ⟨0xD1, .cmp, .indy, 2, 5, true⟩,
   ⟨0xE0, .cpx, .imm, 2, 2, false⟩,
   ⟨0xE4, .cpx, .zp, 2, 3, false⟩,
   ⟨0xEC, .cpx, .abs, 3, 4, false⟩,
   ⟨0xC0, .cpy, .imm, 2, 2, false⟩,
   ⟨0xC4, .cpy, .zp, 2, 3, false⟩,
   ⟨0xCC, .cpy, .abs, 3, 4, false⟩]

/-- The rows of R96 for 42_shift_rotate.md: opcode, mnemonic, mode, bytes, base cycles, page-cross penalty. -/
def shiftRows : InstructionTable :=
  [⟨0x0A, .asl, .acc, 1, 2, false⟩,
   ⟨0x06, .asl, .zp, 2, 5, false⟩,
   ⟨0x16, .asl, .zpx, 2, 6, false⟩,
   ⟨0x0E, .asl, .abs, 3, 6, false⟩,
   ⟨0x1E, .asl, .absx, 3, 7, false⟩,
   ⟨0x4A, .lsr, .acc, 1, 2, false⟩,
   ⟨0x46, .lsr, .zp, 2, 5, false⟩,
   ⟨0x56, .lsr, .zpx, 2, 6, false⟩,
   ⟨0x4E, .lsr, .abs, 3, 6, false⟩,
   ⟨0x5E, .lsr, .absx, 3, 7, false⟩,
   ⟨0x2A, .rol, .acc, 1, 2, false⟩,
   ⟨0x26, .rol, .zp, 2, 5, false⟩,
   ⟨0x36, .rol, .zpx, 2, 6, false⟩,
   ⟨0x2E, .rol, .abs, 3, 6, false⟩,
   ⟨0x3E, .rol, .absx, 3, 7, false⟩,
   ⟨0x6A, .ror, .acc, 1, 2, false⟩,
   ⟨0x66, .ror, .zp, 2, 5, false⟩,
   ⟨0x76, .ror, .zpx, 2, 6, false⟩,
   ⟨0x6E, .ror, .abs, 3, 6, false⟩,
   ⟨0x7E, .ror, .absx, 3, 7, false⟩]

/-- The rows of R96 for 43_control_transfer.md: opcode, mnemonic, mode, bytes, base cycles, page-cross penalty. -/
def controlRows : InstructionTable :=
  [⟨0x4C, .jmp, .abs, 3, 3, false⟩,
   ⟨0x6C, .jmp, .ind, 3, 5, false⟩,
   ⟨0x20, .jsr, .abs, 3, 6, false⟩,
   ⟨0x60, .rts, .imp, 1, 6, false⟩,
   ⟨0x90, .bcc, .rel, 2, 2, false⟩,
   ⟨0xB0, .bcs, .rel, 2, 2, false⟩,
   ⟨0xF0, .beq, .rel, 2, 2, false⟩,
   ⟨0xD0, .bne, .rel, 2, 2, false⟩,
   ⟨0x30, .bmi, .rel, 2, 2, false⟩,
   ⟨0x10, .bpl, .rel, 2, 2, false⟩,
   ⟨0x50, .bvc, .rel, 2, 2, false⟩,
   ⟨0x70, .bvs, .rel, 2, 2, false⟩]

/-- The rows of R96 for 44_stack_system.md: opcode, mnemonic, mode, bytes, base cycles, page-cross penalty. -/
def stackRows : InstructionTable :=
  [⟨0x00, .brk, .imp, 1, 7, false⟩,
   ⟨0x40, .rti, .imp, 1, 7, false⟩,
   ⟨0x48, .pha, .imp, 1, 3, false⟩,
   ⟨0x08, .php, .imp, 1, 3, false⟩,
   ⟨0x68, .pla, .imp, 1, 4, false⟩,
   ⟨0x28, .plp, .imp, 1, 4, false⟩]

/-- The rows of R96 for 45_load_store_transfer.md: opcode, mnemonic, mode, bytes, base cycles, page-cross penalty. -/
def loadStoreRows : InstructionTable :=
  [⟨0xA9, .lda, .imm, 2, 2, false⟩,
   ⟨0xA5, .lda, .zp, 2, 3, false⟩,
   ⟨0xB5, .lda, .zpx, 2, 4, false⟩,
   ⟨0xAD, .lda, .abs, 3, 4, false⟩,
   ⟨0xBD, .lda, .absx, 3, 4, true⟩,
   ⟨0xB9, .lda, .absy, 3, 4, true⟩,
   ⟨0xA1, .lda, .indx, 2, 6, false⟩,
   ⟨0xB1, .lda, .indy, 2, 5, true⟩,
   ⟨0xA2, .ldx, .imm, 2, 2, false⟩,
   ⟨0xA6, .ldx, .zp, 2, 3, false⟩,
   ⟨0xB6, .ldx, .zpy, 2, 4, false⟩,
   ⟨0xAE, .ldx, .abs, 3, 4, false⟩,
   ⟨0xBE, .ldx, .absy, 3, 4, true⟩,
   ⟨0xA0, .ldy, .imm, 2, 2, false⟩,
   ⟨0xA4, .ldy, .zp, 2, 3, false⟩,
   ⟨0xB4, .ldy, .zpx, 2, 4, false⟩,
   ⟨0xAC, .ldy, .abs, 3, 4, false⟩,
   ⟨0xBC, .ldy, .absx, 3, 4, true⟩,
   ⟨0x85, .sta, .zp, 2, 3, false⟩,
   ⟨0x95, .sta, .zpx, 2, 4, false⟩,
   ⟨0x8D, .sta, .abs, 3, 4, false⟩,
   ⟨0x9D, .sta, .absx, 3, 5, false⟩,
   ⟨0x99, .sta, .absy, 3, 5, false⟩,
   ⟨0x81, .sta, .indx, 2, 6, false⟩,
   ⟨0x91, .sta, .indy, 2, 6, false⟩,
   ⟨0x86, .stx, .zp, 2, 3, false⟩,
   ⟨0x96, .stx, .zpy, 2, 4, false⟩,
   ⟨0x8E, .stx, .abs, 3, 4, false⟩,
   ⟨0x84, .sty, .zp, 2, 3, false⟩,
   ⟨0x94, .sty, .zpx, 2, 4, false⟩,
   ⟨0x8C, .sty, .abs, 3, 4, false⟩,
   ⟨0xAA, .tax, .imp, 1, 2, false⟩,
   ⟨0xA8, .tay, .imp, 1, 2, false⟩,
   ⟨0x8A, .txa, .imp, 1, 2, false⟩,
   ⟨0x98, .tya, .imp, 1, 2, false⟩,
   ⟨0xBA, .tsx, .imp, 1, 2, false⟩,
   ⟨0x9A, .txs, .imp, 1, 2, false⟩]

/-- The rows of R96 for 46_logic_incdec_flags.md: opcode, mnemonic, mode, bytes, base cycles, page-cross penalty. -/
def logicRows : InstructionTable :=
  [⟨0x29, .and, .imm, 2, 2, false⟩,
   ⟨0x25, .and, .zp, 2, 3, false⟩,
   ⟨0x35, .and, .zpx, 2, 4, false⟩,
   ⟨0x2D, .and, .abs, 3, 4, false⟩,
   ⟨0x3D, .and, .absx, 3, 4, true⟩,
   ⟨0x39, .and, .absy, 3, 4, true⟩,
   ⟨0x21, .and, .indx, 2, 6, false⟩,
   ⟨0x31, .and, .indy, 2, 5, true⟩,
   ⟨0x09, .ora, .imm, 2, 2, false⟩,
   ⟨0x05, .ora, .zp, 2, 3, false⟩,
   ⟨0x15, .ora, .zpx, 2, 4, false⟩,
   ⟨0x0D, .ora, .abs, 3, 4, false⟩,
   ⟨0x1D, .ora, .absx, 3, 4, true⟩,
   ⟨0x19, .ora, .absy, 3, 4, true⟩,
   ⟨0x01, .ora, .indx, 2, 6, false⟩,
   ⟨0x11, .ora, .indy, 2, 5, true⟩,
   ⟨0x49, .eor, .imm, 2, 2, false⟩,
   ⟨0x45, .eor, .zp, 2, 3, false⟩,
   ⟨0x55, .eor, .zpx, 2, 4, false⟩,
   ⟨0x4D, .eor, .abs, 3, 4, false⟩,
   ⟨0x5D, .eor, .absx, 3, 4, true⟩,
   ⟨0x59, .eor, .absy, 3, 4, true⟩,
   ⟨0x41, .eor, .indx, 2, 6, false⟩,
   ⟨0x51, .eor, .indy, 2, 5, true⟩,
   ⟨0x24, .bit, .zp, 2, 3, false⟩,
   ⟨0x2C, .bit, .abs, 3, 4, false⟩,
   ⟨0xE6, .inc, .zp, 2, 5, false⟩,
   ⟨0xF6, .inc, .zpx, 2, 6, false⟩,
   ⟨0xEE, .inc, .abs, 3, 6, false⟩,
   ⟨0xFE, .inc, .absx, 3, 7, false⟩,
   ⟨0xC6, .dec, .zp, 2, 5, false⟩,
   ⟨0xD6, .dec, .zpx, 2, 6, false⟩,
   ⟨0xCE, .dec, .abs, 3, 6, false⟩,
   ⟨0xDE, .dec, .absx, 3, 7, false⟩,
   ⟨0xE8, .inx, .imp, 1, 2, false⟩,
   ⟨0xC8, .iny, .imp, 1, 2, false⟩,
   ⟨0xCA, .dex, .imp, 1, 2, false⟩,
   ⟨0x88, .dey, .imp, 1, 2, false⟩,
   ⟨0x18, .clc, .imp, 1, 2, false⟩,
   ⟨0x38, .sec, .imp, 1, 2, false⟩,
   ⟨0x58, .cli, .imp, 1, 2, false⟩,
   ⟨0x78, .sei, .imp, 1, 2, false⟩,
   ⟨0xB8, .clv, .imp, 1, 2, false⟩,
   ⟨0xD8, .cld, .imp, 1, 2, false⟩,
   ⟨0xF8, .sed, .imp, 1, 2, false⟩,
   ⟨0xEA, .nop, .imp, 1, 2, false⟩]

/-- The 151-row table of R95 and R96, the default of the parameter (R6, D2, D3; PRESUMED, log 1). -/
def standardTable : InstructionTable :=
  arithRows ++ shiftRows ++ controlRows ++ stackRows ++ loadStoreRows ++ logicRows

/-! ### Looking a table up -/

/-- `describe(opcode)` (R94): the row of an opcode, nothing for an illegal one. A row that breaks what R94, R137 or R138 ask of
it is no row (log 26). -/
def describe (t : InstructionTable) (op : Byte) : Option TableRow :=
  t.find? fun r => r.opcode == op && r.wellFormed

/-- The row of a (mnemonic, mode) pair: the first one that its own opcode is looked up to. -/
def rowFor (t : InstructionTable) (mn : Mnemonic) (mode : Mode) : Option TableRow :=
  t.find? fun r => r.mnemonic == mn && r.mode == mode && describe t r.opcode == some r

/-! ### The instructions by mnemonic and operand -/

/-- The mnemonic and the operand of an instruction (R95). -/
def Instr.desc : Instr → Descriptor
  | .adcImm imm => ⟨.adc, .imm imm⟩
  | .adcZp zp => ⟨.adc, .mem (.zp zp)⟩
  | .adcZpX zp => ⟨.adc, .mem (.zpX zp)⟩
  | .adcAbs abs => ⟨.adc, .mem (.abs abs)⟩
  | .adcAbsX abs => ⟨.adc, .mem (.absX abs)⟩
  | .adcAbsY abs => ⟨.adc, .mem (.absY abs)⟩
  | .adcIndX zp => ⟨.adc, .mem (.indX zp)⟩
  | .adcIndY zp => ⟨.adc, .mem (.indY zp)⟩
  | .sbcImm imm => ⟨.sbc, .imm imm⟩
  | .sbcZp zp => ⟨.sbc, .mem (.zp zp)⟩
  | .sbcZpX zp => ⟨.sbc, .mem (.zpX zp)⟩
  | .sbcAbs abs => ⟨.sbc, .mem (.abs abs)⟩
  | .sbcAbsX abs => ⟨.sbc, .mem (.absX abs)⟩
  | .sbcAbsY abs => ⟨.sbc, .mem (.absY abs)⟩
  | .sbcIndX zp => ⟨.sbc, .mem (.indX zp)⟩
  | .sbcIndY zp => ⟨.sbc, .mem (.indY zp)⟩
  | .cmpImm imm => ⟨.cmp, .imm imm⟩
  | .cmpZp zp => ⟨.cmp, .mem (.zp zp)⟩
  | .cmpZpX zp => ⟨.cmp, .mem (.zpX zp)⟩
  | .cmpAbs abs => ⟨.cmp, .mem (.abs abs)⟩
  | .cmpAbsX abs => ⟨.cmp, .mem (.absX abs)⟩
  | .cmpAbsY abs => ⟨.cmp, .mem (.absY abs)⟩
  | .cmpIndX zp => ⟨.cmp, .mem (.indX zp)⟩
  | .cmpIndY zp => ⟨.cmp, .mem (.indY zp)⟩
  | .cpxImm imm => ⟨.cpx, .imm imm⟩
  | .cpxZp zp => ⟨.cpx, .mem (.zp zp)⟩
  | .cpxAbs abs => ⟨.cpx, .mem (.abs abs)⟩
  | .cpyImm imm => ⟨.cpy, .imm imm⟩
  | .cpyZp zp => ⟨.cpy, .mem (.zp zp)⟩
  | .cpyAbs abs => ⟨.cpy, .mem (.abs abs)⟩
  | .aslAcc => ⟨.asl, .accumulator⟩
  | .aslZp zp => ⟨.asl, .mem (.zp zp)⟩
  | .aslZpX zp => ⟨.asl, .mem (.zpX zp)⟩
  | .aslAbs abs => ⟨.asl, .mem (.abs abs)⟩
  | .aslAbsX abs => ⟨.asl, .mem (.absX abs)⟩
  | .lsrAcc => ⟨.lsr, .accumulator⟩
  | .lsrZp zp => ⟨.lsr, .mem (.zp zp)⟩
  | .lsrZpX zp => ⟨.lsr, .mem (.zpX zp)⟩
  | .lsrAbs abs => ⟨.lsr, .mem (.abs abs)⟩
  | .lsrAbsX abs => ⟨.lsr, .mem (.absX abs)⟩
  | .rolAcc => ⟨.rol, .accumulator⟩
  | .rolZp zp => ⟨.rol, .mem (.zp zp)⟩
  | .rolZpX zp => ⟨.rol, .mem (.zpX zp)⟩
  | .rolAbs abs => ⟨.rol, .mem (.abs abs)⟩
  | .rolAbsX abs => ⟨.rol, .mem (.absX abs)⟩
  | .rorAcc => ⟨.ror, .accumulator⟩
  | .rorZp zp => ⟨.ror, .mem (.zp zp)⟩
  | .rorZpX zp => ⟨.ror, .mem (.zpX zp)⟩
  | .rorAbs abs => ⟨.ror, .mem (.abs abs)⟩
  | .rorAbsX abs => ⟨.ror, .mem (.absX abs)⟩
  | .jmpAbs abs => ⟨.jmp, .mem (.abs abs)⟩
  | .jmpInd ptr => ⟨.jmp, .ind ptr⟩
  | .jsr abs => ⟨.jsr, .mem (.abs abs)⟩
  | .rts => ⟨.rts, .implied⟩
  | .bcc disp => ⟨.bcc, .rel disp⟩
  | .bcs disp => ⟨.bcs, .rel disp⟩
  | .beq disp => ⟨.beq, .rel disp⟩
  | .bne disp => ⟨.bne, .rel disp⟩
  | .bmi disp => ⟨.bmi, .rel disp⟩
  | .bpl disp => ⟨.bpl, .rel disp⟩
  | .bvc disp => ⟨.bvc, .rel disp⟩
  | .bvs disp => ⟨.bvs, .rel disp⟩
  | .brk => ⟨.brk, .implied⟩
  | .rti => ⟨.rti, .implied⟩
  | .pha => ⟨.pha, .implied⟩
  | .php => ⟨.php, .implied⟩
  | .pla => ⟨.pla, .implied⟩
  | .plp => ⟨.plp, .implied⟩
  | .ldaImm imm => ⟨.lda, .imm imm⟩
  | .ldaZp zp => ⟨.lda, .mem (.zp zp)⟩
  | .ldaZpX zp => ⟨.lda, .mem (.zpX zp)⟩
  | .ldaAbs abs => ⟨.lda, .mem (.abs abs)⟩
  | .ldaAbsX abs => ⟨.lda, .mem (.absX abs)⟩
  | .ldaAbsY abs => ⟨.lda, .mem (.absY abs)⟩
  | .ldaIndX zp => ⟨.lda, .mem (.indX zp)⟩
  | .ldaIndY zp => ⟨.lda, .mem (.indY zp)⟩
  | .ldxImm imm => ⟨.ldx, .imm imm⟩
  | .ldxZp zp => ⟨.ldx, .mem (.zp zp)⟩
  | .ldxZpY zp => ⟨.ldx, .mem (.zpY zp)⟩
  | .ldxAbs abs => ⟨.ldx, .mem (.abs abs)⟩
  | .ldxAbsY abs => ⟨.ldx, .mem (.absY abs)⟩
  | .ldyImm imm => ⟨.ldy, .imm imm⟩
  | .ldyZp zp => ⟨.ldy, .mem (.zp zp)⟩
  | .ldyZpX zp => ⟨.ldy, .mem (.zpX zp)⟩
  | .ldyAbs abs => ⟨.ldy, .mem (.abs abs)⟩
  | .ldyAbsX abs => ⟨.ldy, .mem (.absX abs)⟩
  | .staZp zp => ⟨.sta, .mem (.zp zp)⟩
  | .staZpX zp => ⟨.sta, .mem (.zpX zp)⟩
  | .staAbs abs => ⟨.sta, .mem (.abs abs)⟩
  | .staAbsX abs => ⟨.sta, .mem (.absX abs)⟩
  | .staAbsY abs => ⟨.sta, .mem (.absY abs)⟩
  | .staIndX zp => ⟨.sta, .mem (.indX zp)⟩
  | .staIndY zp => ⟨.sta, .mem (.indY zp)⟩
  | .stxZp zp => ⟨.stx, .mem (.zp zp)⟩
  | .stxZpY zp => ⟨.stx, .mem (.zpY zp)⟩
  | .stxAbs abs => ⟨.stx, .mem (.abs abs)⟩
  | .styZp zp => ⟨.sty, .mem (.zp zp)⟩
  | .styZpX zp => ⟨.sty, .mem (.zpX zp)⟩
  | .styAbs abs => ⟨.sty, .mem (.abs abs)⟩
  | .tax => ⟨.tax, .implied⟩
  | .tay => ⟨.tay, .implied⟩
  | .txa => ⟨.txa, .implied⟩
  | .tya => ⟨.tya, .implied⟩
  | .tsx => ⟨.tsx, .implied⟩
  | .txs => ⟨.txs, .implied⟩
  | .andImm imm => ⟨.and, .imm imm⟩
  | .andZp zp => ⟨.and, .mem (.zp zp)⟩
  | .andZpX zp => ⟨.and, .mem (.zpX zp)⟩
  | .andAbs abs => ⟨.and, .mem (.abs abs)⟩
  | .andAbsX abs => ⟨.and, .mem (.absX abs)⟩
  | .andAbsY abs => ⟨.and, .mem (.absY abs)⟩
  | .andIndX zp => ⟨.and, .mem (.indX zp)⟩
  | .andIndY zp => ⟨.and, .mem (.indY zp)⟩
  | .oraImm imm => ⟨.ora, .imm imm⟩
  | .oraZp zp => ⟨.ora, .mem (.zp zp)⟩
  | .oraZpX zp => ⟨.ora, .mem (.zpX zp)⟩
  | .oraAbs abs => ⟨.ora, .mem (.abs abs)⟩
  | .oraAbsX abs => ⟨.ora, .mem (.absX abs)⟩
  | .oraAbsY abs => ⟨.ora, .mem (.absY abs)⟩
  | .oraIndX zp => ⟨.ora, .mem (.indX zp)⟩
  | .oraIndY zp => ⟨.ora, .mem (.indY zp)⟩
  | .eorImm imm => ⟨.eor, .imm imm⟩
  | .eorZp zp => ⟨.eor, .mem (.zp zp)⟩
  | .eorZpX zp => ⟨.eor, .mem (.zpX zp)⟩
  | .eorAbs abs => ⟨.eor, .mem (.abs abs)⟩
  | .eorAbsX abs => ⟨.eor, .mem (.absX abs)⟩
  | .eorAbsY abs => ⟨.eor, .mem (.absY abs)⟩
  | .eorIndX zp => ⟨.eor, .mem (.indX zp)⟩
  | .eorIndY zp => ⟨.eor, .mem (.indY zp)⟩
  | .bitZp zp => ⟨.bit, .mem (.zp zp)⟩
  | .bitAbs abs => ⟨.bit, .mem (.abs abs)⟩
  | .incZp zp => ⟨.inc, .mem (.zp zp)⟩
  | .incZpX zp => ⟨.inc, .mem (.zpX zp)⟩
  | .incAbs abs => ⟨.inc, .mem (.abs abs)⟩
  | .incAbsX abs => ⟨.inc, .mem (.absX abs)⟩
  | .decZp zp => ⟨.dec, .mem (.zp zp)⟩
  | .decZpX zp => ⟨.dec, .mem (.zpX zp)⟩
  | .decAbs abs => ⟨.dec, .mem (.abs abs)⟩
  | .decAbsX abs => ⟨.dec, .mem (.absX abs)⟩
  | .inx => ⟨.inx, .implied⟩
  | .iny => ⟨.iny, .implied⟩
  | .dex => ⟨.dex, .implied⟩
  | .dey => ⟨.dey, .implied⟩
  | .clc => ⟨.clc, .implied⟩
  | .sec => ⟨.sec, .implied⟩
  | .cli => ⟨.cli, .implied⟩
  | .sei => ⟨.sei, .implied⟩
  | .clv => ⟨.clv, .implied⟩
  | .cld => ⟨.cld, .implied⟩
  | .sed => ⟨.sed, .implied⟩
  | .nop => ⟨.nop, .implied⟩

/-- The length of an instruction: that of its format (R92, R94). -/
def Descriptor.bytes (d : Descriptor) : Nat := d.operand.mode.length

/-- Whether an instruction takes the read-path page-cross cycle (R137). -/
def Descriptor.pageCross (d : Descriptor) : Bool := d.mnemonic.paysPageCross d.operand.mode

/-- An instruction is well formed when its mnemonic has its mode (R138). -/
def Instr.wellFormed (i : Instr) : Bool := i.desc.modeOk

/-- The instruction of a mnemonic with an operand, nothing where the mnemonic does not have the mode (R138). -/
def Descriptor.instr (d : Descriptor) : Option Instr :=
  match d.mnemonic with
  | .adc =>
    match d.operand with
    | .imm imm => some (.adcImm imm)
    | .mem (.zp zp) => some (.adcZp zp)
    | .mem (.zpX zp) => some (.adcZpX zp)
    | .mem (.abs abs) => some (.adcAbs abs)
    | .mem (.absX abs) => some (.adcAbsX abs)
    | .mem (.absY abs) => some (.adcAbsY abs)
    | .mem (.indX zp) => some (.adcIndX zp)
    | .mem (.indY zp) => some (.adcIndY zp)
    | _ => none
  | .sbc =>
    match d.operand with
    | .imm imm => some (.sbcImm imm)
    | .mem (.zp zp) => some (.sbcZp zp)
    | .mem (.zpX zp) => some (.sbcZpX zp)
    | .mem (.abs abs) => some (.sbcAbs abs)
    | .mem (.absX abs) => some (.sbcAbsX abs)
    | .mem (.absY abs) => some (.sbcAbsY abs)
    | .mem (.indX zp) => some (.sbcIndX zp)
    | .mem (.indY zp) => some (.sbcIndY zp)
    | _ => none
  | .cmp =>
    match d.operand with
    | .imm imm => some (.cmpImm imm)
    | .mem (.zp zp) => some (.cmpZp zp)
    | .mem (.zpX zp) => some (.cmpZpX zp)
    | .mem (.abs abs) => some (.cmpAbs abs)
    | .mem (.absX abs) => some (.cmpAbsX abs)
    | .mem (.absY abs) => some (.cmpAbsY abs)
    | .mem (.indX zp) => some (.cmpIndX zp)
    | .mem (.indY zp) => some (.cmpIndY zp)
    | _ => none
  | .cpx =>
    match d.operand with
    | .imm imm => some (.cpxImm imm)
    | .mem (.zp zp) => some (.cpxZp zp)
    | .mem (.abs abs) => some (.cpxAbs abs)
    | _ => none
  | .cpy =>
    match d.operand with
    | .imm imm => some (.cpyImm imm)
    | .mem (.zp zp) => some (.cpyZp zp)
    | .mem (.abs abs) => some (.cpyAbs abs)
    | _ => none
  | .asl =>
    match d.operand with
    | .accumulator => some .aslAcc
    | .mem (.zp zp) => some (.aslZp zp)
    | .mem (.zpX zp) => some (.aslZpX zp)
    | .mem (.abs abs) => some (.aslAbs abs)
    | .mem (.absX abs) => some (.aslAbsX abs)
    | _ => none
  | .lsr =>
    match d.operand with
    | .accumulator => some .lsrAcc
    | .mem (.zp zp) => some (.lsrZp zp)
    | .mem (.zpX zp) => some (.lsrZpX zp)
    | .mem (.abs abs) => some (.lsrAbs abs)
    | .mem (.absX abs) => some (.lsrAbsX abs)
    | _ => none
  | .rol =>
    match d.operand with
    | .accumulator => some .rolAcc
    | .mem (.zp zp) => some (.rolZp zp)
    | .mem (.zpX zp) => some (.rolZpX zp)
    | .mem (.abs abs) => some (.rolAbs abs)
    | .mem (.absX abs) => some (.rolAbsX abs)
    | _ => none
  | .ror =>
    match d.operand with
    | .accumulator => some .rorAcc
    | .mem (.zp zp) => some (.rorZp zp)
    | .mem (.zpX zp) => some (.rorZpX zp)
    | .mem (.abs abs) => some (.rorAbs abs)
    | .mem (.absX abs) => some (.rorAbsX abs)
    | _ => none
  | .jmp =>
    match d.operand with
    | .mem (.abs abs) => some (.jmpAbs abs)
    | .ind ptr => some (.jmpInd ptr)
    | _ => none
  | .jsr =>
    match d.operand with
    | .mem (.abs abs) => some (.jsr abs)
    | _ => none
  | .rts =>
    match d.operand with
    | .implied => some .rts
    | _ => none
  | .bcc =>
    match d.operand with
    | .rel disp => some (.bcc disp)
    | _ => none
  | .bcs =>
    match d.operand with
    | .rel disp => some (.bcs disp)
    | _ => none
  | .beq =>
    match d.operand with
    | .rel disp => some (.beq disp)
    | _ => none
  | .bne =>
    match d.operand with
    | .rel disp => some (.bne disp)
    | _ => none
  | .bmi =>
    match d.operand with
    | .rel disp => some (.bmi disp)
    | _ => none
  | .bpl =>
    match d.operand with
    | .rel disp => some (.bpl disp)
    | _ => none
  | .bvc =>
    match d.operand with
    | .rel disp => some (.bvc disp)
    | _ => none
  | .bvs =>
    match d.operand with
    | .rel disp => some (.bvs disp)
    | _ => none
  | .brk =>
    match d.operand with
    | .implied => some .brk
    | _ => none
  | .rti =>
    match d.operand with
    | .implied => some .rti
    | _ => none
  | .pha =>
    match d.operand with
    | .implied => some .pha
    | _ => none
  | .php =>
    match d.operand with
    | .implied => some .php
    | _ => none
  | .pla =>
    match d.operand with
    | .implied => some .pla
    | _ => none
  | .plp =>
    match d.operand with
    | .implied => some .plp
    | _ => none
  | .lda =>
    match d.operand with
    | .imm imm => some (.ldaImm imm)
    | .mem (.zp zp) => some (.ldaZp zp)
    | .mem (.zpX zp) => some (.ldaZpX zp)
    | .mem (.abs abs) => some (.ldaAbs abs)
    | .mem (.absX abs) => some (.ldaAbsX abs)
    | .mem (.absY abs) => some (.ldaAbsY abs)
    | .mem (.indX zp) => some (.ldaIndX zp)
    | .mem (.indY zp) => some (.ldaIndY zp)
    | _ => none
  | .ldx =>
    match d.operand with
    | .imm imm => some (.ldxImm imm)
    | .mem (.zp zp) => some (.ldxZp zp)
    | .mem (.zpY zp) => some (.ldxZpY zp)
    | .mem (.abs abs) => some (.ldxAbs abs)
    | .mem (.absY abs) => some (.ldxAbsY abs)
    | _ => none
  | .ldy =>
    match d.operand with
    | .imm imm => some (.ldyImm imm)
    | .mem (.zp zp) => some (.ldyZp zp)
    | .mem (.zpX zp) => some (.ldyZpX zp)
    | .mem (.abs abs) => some (.ldyAbs abs)
    | .mem (.absX abs) => some (.ldyAbsX abs)
    | _ => none
  | .sta =>
    match d.operand with
    | .mem (.zp zp) => some (.staZp zp)
    | .mem (.zpX zp) => some (.staZpX zp)
    | .mem (.abs abs) => some (.staAbs abs)
    | .mem (.absX abs) => some (.staAbsX abs)
    | .mem (.absY abs) => some (.staAbsY abs)
    | .mem (.indX zp) => some (.staIndX zp)
    | .mem (.indY zp) => some (.staIndY zp)
    | _ => none
  | .stx =>
    match d.operand with
    | .mem (.zp zp) => some (.stxZp zp)
    | .mem (.zpY zp) => some (.stxZpY zp)
    | .mem (.abs abs) => some (.stxAbs abs)
    | _ => none
  | .sty =>
    match d.operand with
    | .mem (.zp zp) => some (.styZp zp)
    | .mem (.zpX zp) => some (.styZpX zp)
    | .mem (.abs abs) => some (.styAbs abs)
    | _ => none
  | .tax =>
    match d.operand with
    | .implied => some .tax
    | _ => none
  | .tay =>
    match d.operand with
    | .implied => some .tay
    | _ => none
  | .txa =>
    match d.operand with
    | .implied => some .txa
    | _ => none
  | .tya =>
    match d.operand with
    | .implied => some .tya
    | _ => none
  | .tsx =>
    match d.operand with
    | .implied => some .tsx
    | _ => none
  | .txs =>
    match d.operand with
    | .implied => some .txs
    | _ => none
  | .and =>
    match d.operand with
    | .imm imm => some (.andImm imm)
    | .mem (.zp zp) => some (.andZp zp)
    | .mem (.zpX zp) => some (.andZpX zp)
    | .mem (.abs abs) => some (.andAbs abs)
    | .mem (.absX abs) => some (.andAbsX abs)
    | .mem (.absY abs) => some (.andAbsY abs)
    | .mem (.indX zp) => some (.andIndX zp)
    | .mem (.indY zp) => some (.andIndY zp)
    | _ => none
  | .ora =>
    match d.operand with
    | .imm imm => some (.oraImm imm)
    | .mem (.zp zp) => some (.oraZp zp)
    | .mem (.zpX zp) => some (.oraZpX zp)
    | .mem (.abs abs) => some (.oraAbs abs)
    | .mem (.absX abs) => some (.oraAbsX abs)
    | .mem (.absY abs) => some (.oraAbsY abs)
    | .mem (.indX zp) => some (.oraIndX zp)
    | .mem (.indY zp) => some (.oraIndY zp)
    | _ => none
  | .eor =>
    match d.operand with
    | .imm imm => some (.eorImm imm)
    | .mem (.zp zp) => some (.eorZp zp)
    | .mem (.zpX zp) => some (.eorZpX zp)
    | .mem (.abs abs) => some (.eorAbs abs)
    | .mem (.absX abs) => some (.eorAbsX abs)
    | .mem (.absY abs) => some (.eorAbsY abs)
    | .mem (.indX zp) => some (.eorIndX zp)
    | .mem (.indY zp) => some (.eorIndY zp)
    | _ => none
  | .bit =>
    match d.operand with
    | .mem (.zp zp) => some (.bitZp zp)
    | .mem (.abs abs) => some (.bitAbs abs)
    | _ => none
  | .inc =>
    match d.operand with
    | .mem (.zp zp) => some (.incZp zp)
    | .mem (.zpX zp) => some (.incZpX zp)
    | .mem (.abs abs) => some (.incAbs abs)
    | .mem (.absX abs) => some (.incAbsX abs)
    | _ => none
  | .dec =>
    match d.operand with
    | .mem (.zp zp) => some (.decZp zp)
    | .mem (.zpX zp) => some (.decZpX zp)
    | .mem (.abs abs) => some (.decAbs abs)
    | .mem (.absX abs) => some (.decAbsX abs)
    | _ => none
  | .inx =>
    match d.operand with
    | .implied => some .inx
    | _ => none
  | .iny =>
    match d.operand with
    | .implied => some .iny
    | _ => none
  | .dex =>
    match d.operand with
    | .implied => some .dex
    | _ => none
  | .dey =>
    match d.operand with
    | .implied => some .dey
    | _ => none
  | .clc =>
    match d.operand with
    | .implied => some .clc
    | _ => none
  | .sec =>
    match d.operand with
    | .implied => some .sec
    | _ => none
  | .cli =>
    match d.operand with
    | .implied => some .cli
    | _ => none
  | .sei =>
    match d.operand with
    | .implied => some .sei
    | _ => none
  | .clv =>
    match d.operand with
    | .implied => some .clv
    | _ => none
  | .cld =>
    match d.operand with
    | .implied => some .cld
    | _ => none
  | .sed =>
    match d.operand with
    | .implied => some .sed
    | _ => none
  | .nop =>
    match d.operand with
    | .implied => some .nop
    | _ => none

/-- The operand of a format, assembled from the operand bytes `b1`, `b2` (R93: the byte itself, or `b2:b1`); a format without
an operand byte ignores them. -/
def Operand.ofBytes (mode : Mode) (b1 b2 : Byte) : Operand :=
  match mode with
  | .imp => .implied
  | .acc => .accumulator
  | .imm => .imm b1
  | .zp => .mem (.zp b1)
  | .zpx => .mem (.zpX b1)
  | .zpy => .mem (.zpY b1)
  | .rel => .rel b1
  | .indx => .mem (.indX b1)
  | .indy => .mem (.indY b1)
  | .abs => .mem (.abs (hiLo b2 b1))
  | .absx => .mem (.absX (hiLo b2 b1))
  | .absy => .mem (.absY (hiLo b2 b1))
  | .ind => .ind (hiLo b2 b1)

/-- The instruction a row stands for with its operand bytes (R90, R93). -/
def TableRow.instr (r : TableRow) (b1 b2 : Byte) : Option Instr :=
  Descriptor.instr ⟨r.mnemonic, Operand.ofBytes r.mode b1 b2⟩

/-! ### The decoder -/

/-- Why bytes are no instruction. -/
inductive DecodeError where
  | unsupportedOpcode (op : Byte)  -- an illegal opcode byte (R97)
  | truncated (op : Byte)          -- fewer operand bytes than the format has (R92)
  | noBytes                        -- no opcode byte
deriving DecidableEq, Repr

/-- The instruction at the head of a list of bytes under a table, and the bytes after it (R92). -/
def decodeWith (t : InstructionTable) (bytes : List Byte) : Except DecodeError (Instr × List Byte) :=
  match bytes with
  | [] => .error .noBytes
  | op :: rest =>
    match describe t op with
    | none => .error (.unsupportedOpcode op)
    | some r =>
      if rest.length + 1 < r.bytes then .error (.truncated op)
      else match r.instr (rest.getD 0 0) (rest.getD 1 0) with
        | none => .error (.unsupportedOpcode op)
        | some i => .ok (i, rest.drop (r.bytes - 1))

/-- The decoder of the default table. -/
def decode (bytes : List Byte) : Except DecodeError (Instr × List Byte) := decodeWith standardTable bytes

/-! ### The encoder -/

/-- The operand bytes of a memory operand, in increasing address order (R91, R93). -/
def MemOperand.bytes (m : MemOperand) : List Byte :=
  match m with
  | .zp b | .zpX b | .zpY b | .indX b | .indY b => [b]
  | .abs a | .absX a | .absY a => littleEndian a

/-- The operand bytes of an operand, in increasing address order (R91, R93). -/
def Operand.bytes (o : Operand) : List Byte :=
  match o with
  | .implied | .accumulator => []
  | .imm v => [v]
  | .mem m => m.bytes
  | .ind a => littleEndian a
  | .rel d => [d]

/-- The bytes of an instruction under a table (R90, R91); nothing where the table has no opcode for it (R138). -/
def encodeWith (t : InstructionTable) (i : Instr) : Option (List Byte) :=
  (rowFor t i.desc.mnemonic i.desc.operand.mode).map fun r => r.opcode :: i.desc.operand.bytes

/-- The bytes of an instruction under the default table, which has an opcode for every one. -/
def encode (i : Instr) : List Byte := (encodeWith standardTable i).getD []

/-- What the decoder reads from an instruction whose bits are `w`, numbered as spec/opcode_table.json numbers them. -/
def decodeTableWord (nbits w : Nat) : Option Instr :=
  match decode (tableBytes nbits w) with
  | .ok (i, _) => some i
  | .error _ => none

end Sys2Proof
end

