-- ==== Sys2Proof/Machine/Flags.lean ====
section
/-! DEFINITION. The status register's flags and every flag computation the spec gives: 10_state.md R23 to R31,
00_scope.md R9, 41_arithmetic_compare.md R150 to R152, 42_shift_rotate.md R170, 46_logic_incdec_flags.md R273. -/

namespace Sys2Proof.Machine

/-- The eight bits of P by name (R23). -/
inductive Flag where
  | c | z | i | d | b | u | v | n
deriving DecidableEq, Repr

/-- R23: C=1, Z=2, I=4, D=8, B=16, Unused=32, V=64, N=128, bit 0 having weight 1 (R7). -/
def flagIndex : Flag → Nat
  | .c => 0
  | .z => 1
  | .i => 2
  | .d => 3
  | .b => 4
  | .u => 5
  | .v => 6
  | .n => 7

/-- The mask of a flag (R23). -/
def flagMask (f : Flag) : Byte := 1#8 <<< flagIndex f

/-- `P.f` as a truth value. -/
def getFlag (f : Flag) (p : Byte) : Bool := p.getLsbD (flagIndex f)

/-- `P.f <- v`: "a flag helper always overwrites the flag" (R9). -/
def setFlag (f : Flag) (v : Bool) (p : Byte) : Byte :=
  if v then p ||| flagMask f else p &&& ~~~flagMask f

/-- `P.C` as 0 or 1. -/
def carryBit (p : Byte) : Nat := if getFlag .c p then 1 else 0

/-- `SetZN(v)` (R8, R9). -/
def setZN (v p : Byte) : Byte := setFlag .n v.msb (setFlag .z (v == 0) p)

/-- The un-reduced sum of `AddWithCarry`, 0 to 511 (R150). -/
def addSum (a v p : Byte) : Nat := a.toNat + v.toNat + carryBit p

/-- The flags of `AddWithCarry` (R150). -/
def addFlags (a v p : Byte) : Byte :=
  let r := BitVec.ofNat 8 (addSum a v p)
  setZN r (setFlag .v (a.msb == v.msb && r.msb != a.msb) (setFlag .c (decide (255 < addSum a v p)) p))

/-- The un-reduced difference of `SubtractWithBorrow`, -256 to 255 (R151). -/
def subDiff (a v p : Byte) : Int := (a.toNat : Int) - v.toNat - (1 - carryBit p)

/-- The flags of `SubtractWithBorrow` (R151). -/
def subFlags (a v p : Byte) : Byte :=
  let r := BitVec.ofInt 8 (subDiff a v p)
  setZN r (setFlag .v (a.msb != v.msb && r.msb != a.msb) (setFlag .c (decide (0 ≤ subDiff a v p)) p))

/-- The flags of `Compare(reg, v)` (R152). -/
def compareFlags (reg v p : Byte) : Byte :=
  setFlag .n (reg - v).msb (setFlag .z (reg == v) (setFlag .c (decide (v.toNat ≤ reg.toNat)) p))

/-- The flags of BIT (R273): Z from `A & v`, V from bit 6 and N from bit 7 of the tested byte itself. -/
def bitFlags (a v p : Byte) : Byte :=
  setFlag .n (v.getLsbD 7) (setFlag .v (v.getLsbD 6) (setFlag .z ((a &&& v) == 0) p))

/-- `ShiftLeft(v)` (R170): the new byte and the new P. -/
def shiftLeft (v p : Byte) : Byte × Byte :=
  let r := v <<< 1
  (r, setZN r (setFlag .c (v.getLsbD 7) p))

/-- `ShiftRight(v)` (R170). -/
def shiftRight (v p : Byte) : Byte × Byte :=
  let r := v >>> 1
  (r, setZN r (setFlag .c (v.getLsbD 0) p))

/-- `RotateLeft(v)` (R170): the prior carry goes into bit 0. -/
def rotateLeft (v p : Byte) : Byte × Byte :=
  let r := (v <<< 1) ||| BitVec.ofNat 8 (carryBit p)
  (r, setZN r (setFlag .c (v.getLsbD 7) p))

/-- `RotateRight(v)` (R170): the prior carry goes into bit 7. -/
def rotateRight (v p : Byte) : Byte × Byte :=
  let r := (v >>> 1) ||| (BitVec.ofNat 8 (carryBit p) <<< 7)
  (r, setZN r (setFlag .c (v.getLsbD 0) p))

/-- INC's `f(old) = (old + 1) mod 256` with `SetZN` (R274). -/
def increment (v p : Byte) : Byte × Byte := (v + 1, setZN (v + 1) p)

/-- DEC's `f(old) = (old - 1) mod 256` with `SetZN` (R275). -/
def decrement (v p : Byte) : Byte × Byte := (v - 1, setZN (v - 1) p)

/-- The byte PHP and BRK push: "Break flag forced on for the pushed copy" (R28, R220, R223). -/
def pushedStatus (p : Byte) : Byte := p ||| 0x10

/-- What RTI makes of the pulled byte: Unused forced on, Break as pulled (R221). -/
def rtiStatus (v : Byte) : Byte := v ||| 0x20

/-- What PLP makes of the pulled byte: Break forced off, Unused forced on (R225). -/
def plpStatus (v : Byte) : Byte := (v &&& 0xEF) ||| 0x20

/-- What `Reset(init)` makes of `init.P`: Unused forced on (R350). -/
def resetStatus (v : Byte) : Byte := v ||| 0x20

end Sys2Proof.Machine
end

