-- ==== Sys2Proof/Config.lean ====
section
/-! DEFINITION. The implementation parameters of 00_scope.md rule R6 and 92_eei_decisions.md ("Parameters a model takes as
arguments"). The step takes them from `State.cfg`; the values the spec recommends are `Machine.recommendedConfig`. -/

namespace Sys2Proof

/-- `ADDR_OVERFLOW` (R6, R56, D7): what an address sum above `$FFFF` does. -/
inductive AddrOverflow where
  | wrap   -- reduced modulo 65536 (the default)
  | fault  -- raises `UnmappedAddress(sum)`
deriving DecidableEq, Repr

/-- The memory behind the bus interface (R6: "any memory meeting R51, R52 may be substituted"). -/
inductive MemoryMap where
  | reference           -- the MemoryBus of 20_memory.md R57 to R61
  | flat                -- 65536 independent writable cells (90_conflicts.md C8, 95_test_vectors.md S4)
  | substitute (n : Nat)  -- any other memory, the `n`-th: `Config.substituteRead`, `Config.substituteWrite`
deriving DecidableEq, Repr

/-- What `MemRead` of the `n`-th substitute memory gives at an address, from the memory's contents: pure and total (R51, R52).
FREE (log 25): the contract fixes nothing else of it, and neither does this constant. -/
opaque Config.substituteRead : Nat → List Host.Cell → Addr → Byte

/-- The cells of its contents that the `n`-th substitute memory stores on a `MemWrite` ("per region rules", R51), from its
contents, the address and the byte. FREE (log 25). -/
opaque Config.substituteWrite : Nat → List Host.Cell → Addr → Byte → List Host.Cell

/-- The parameters of the core; fixed for a machine, written by no step. -/
structure Config where
  table            : InstructionTable  -- `InstructionTable`, D2, D3
  addrOverflow     : AddrOverflow      -- `ADDR_OVERFLOW`, D7
  zpPointerWrap    : Bool              -- `ZP_POINTER_WRAP`, D8
  rmwPagePenalty   : Bool              -- `RMW_PAGE_PENALTY`, D10
  brkSkippedCycles : Nat               -- `BRK_SKIPPED_CYCLES`, D6
  brkLength        : Nat               -- `BRK_LENGTH`, D4
  memoryMap        : MemoryMap         -- the memory behind the bus, R57
deriving DecidableEq, Repr

end Sys2Proof
end

