-- ==== Sys2Proof/Machine/Memory.lean ====
section
/-! DEFINITION. Memory as plain data: a list of (cell, byte) pairs in one canonical form, and what `MemRead` and `MemWrite` do
on each memory that can stand behind the bus: the reference platform (20_memory.md R57 to R61), the flat memory of 90_conflicts.md
C8, and any substitute that meets R51 and R52 (00_scope.md R4, R6). -/

namespace Sys2Proof.Machine

/-- The cells of memory that do not hold `unlisted`, by rising cell number. -/
abbrev Memory := List Host.Cell

/-- What a cell that is not listed reads as. DESIGN CHOICE, unsafe (log 4): R72 gives no reset contents. -/
def unlisted : Byte := 0

/-- Whether the memory is one of independent cells that an address reaches one of. A substitute memory need be none: its
own functions give its reads and writes (log 25). -/
def hasCells (map : MemoryMap) : Bool :=
  match map with
  | .reference | .flat => true
  | .substitute _ => false

/-- The cell an address reaches. Reference: `RAM[a & $07FF]` below `$2000` (R58), `PPUREG[a & 7]` at `$2000`-`$3FFF`
(R59), the address itself above (R60, R61). Flat: the address itself. Substitute: the address itself, which only the host's raw
access uses (log 25). -/
def cellOf (map : MemoryMap) (a : Addr) : Nat :=
  match map with
  | .flat | .substitute _ => a.toNat
  | .reference =>
    if a.toNat < 0x2000 then a.toNat % 0x800
    else if a.toNat < 0x4000 then 0x2000 + a.toNat % 8
    else a.toNat

/-- Whether a `MemWrite` at an address is stored: on the reference platform one to `$8000`-`$FFFF` is discarded (R61). -/
def storable (map : MemoryMap) (a : Addr) : Bool :=
  match map with
  | .flat | .substitute _ => true
  | .reference => decide (a.toNat < 0x8000)

/-- Whether a number is a cell of the map: in the image of `cellOf`; a substitute memory may use any number. -/
def isCell (map : MemoryMap) (k : Nat) : Bool :=
  match map with
  | .reference | .flat => decide (k < 0x10000) && (cellOf map (BitVec.ofNat 16 k) == k)
  | .substitute _ => true

/-- The byte in cell `k`. -/
def Memory.byteAt (m : Memory) (k : Nat) : Byte :=
  match m with
  | [] => unlisted
  | (j, b) :: rest => if j = k then b else Memory.byteAt rest k

/-- Put a byte in cell `k`, keeping the canonical form: writing `unlisted` removes the entry. -/
def Memory.store (m : Memory) (k : Nat) (v : Byte) : Memory :=
  match m with
  | [] => if v = unlisted then [] else [(k, v)]
  | (j, b) :: rest =>
    if k < j then (if v = unlisted then (j, b) :: rest else (k, v) :: (j, b) :: rest)
    else if k = j then (if v = unlisted then rest else (k, v) :: rest)
    else (j, b) :: Memory.store rest k v

/-- Put bytes in cells, one after the other. -/
def Memory.storeAll (m : Memory) (cells : List Host.Cell) : Memory :=
  match cells with
  | [] => m
  | (k, v) :: rest => Memory.storeAll (m.store k v) rest

/-- `MemRead(addr, 1)` of the memory behind the bus (R51, R52, R57 to R61). -/
def Memory.readAt (map : MemoryMap) (m : Memory) (a : Addr) : Byte :=
  match map with
  | .reference | .flat => m.byteAt (cellOf map a)
  | .substitute n => Config.substituteRead n m a

/-- `MemWrite(addr, 1, v)` of the memory behind the bus, by its region rules: the reference platform silently discards a write
to Program ROM (R51, R57 to R61). -/
def Memory.writeAt (map : MemoryMap) (m : Memory) (a : Addr) (v : Byte) : Memory :=
  match map with
  | .reference | .flat => if storable map a then m.store (cellOf map a) v else m
  | .substitute n => m.storeAll (Config.substituteWrite n m a v)

/-- The canonical form from cell number `lo` on: cells strictly rising, each a cell of the map, no listed byte equal to
`unlisted`. -/
def Memory.wfFrom (map : MemoryMap) (lo : Nat) (m : Memory) : Bool :=
  match m with
  | [] => true
  | (j, b) :: rest => decide (lo ≤ j) && isCell map j && (b != unlisted) && Memory.wfFrom map (j + 1) rest

/-- The canonical form of memory, so that equal memories are equal data. -/
def Memory.wf (map : MemoryMap) (m : Memory) : Bool := Memory.wfFrom map 0 m

end Sys2Proof.Machine
end

