-- ==== Sys2Proof/Machine/Defaults.lean ====
section
/-! DEFINITION. The parameter values 00_scope.md rule R6 recommends, and the record a reset loads when the host names none. -/

namespace Sys2Proof.Machine

/-- The defaults of R6 (D2 to D4, D6 to D8, D10) over the reference MemoryBus (R57). -/
def recommendedConfig : Config where
  table := standardTable
  addrOverflow := .wrap
  zpPointerWrap := true
  rmwPagePenalty := false
  brkSkippedCycles := 7
  brkLength := 1
  memoryMap := .reference

/-- The record `init` of `Reset(init)` (70_reset_and_hazards.md R350). -/
structure ResetInit where
  pc  : Addr
  sp  : Byte
  a   : Byte
  x   : Byte
  y   : Byte
  p   : Byte
  cyc : Nat
deriving DecidableEq, Repr

/-- What the model resets to when no host has chosen: P = $20 and CYC = 0 as 10_state.md R34 has them; PC, SP, A, X, Y, to
which the spec gives no value, as the start state of 95_test_vectors.md. DESIGN CHOICE, unsafe (log 2, log 3). -/
def defaultInit : ResetInit where
  pc := 0x8000
  sp := 0xFD
  a := 0
  x := 0
  y := 0
  p := 0x20
  cyc := 0

end Sys2Proof.Machine
end

