-- ==== Sys2Proof/Machine/State.lean ====
section
/-! DEFINITION. The state of the machine as plain data: the seven items of 10_state.md (R20 to R34), the memory behind the
bus (20_memory.md) and the parameters of 00_scope.md R6; the reasons a step can stop; the state after reset. -/

namespace Sys2Proof.Machine

/-- Everything the spec gives the machine (10_state.md R33: "There is no other state in the core"), the memory behind its
bus, and the parameters it runs under. -/
structure State where
  a   : Byte     -- Accumulator, R20
  x   : Byte     -- IndexX, R20
  y   : Byte     -- IndexY, R20
  sp  : Byte     -- StackPointer, offset into $0100-$01FF, R21
  pc  : Addr     -- ProgramCounter, R22
  p   : Byte     -- StatusRegister N V 1 B D I Z C, R23
  cyc : Nat      -- CycleCounter, unbounded, R32
  mem : Memory   -- the contents of the memory behind the bus, R50, R57
  cfg : Config   -- the parameters of R6; written by no step (log 5)
deriving DecidableEq, Repr

/-- The error outcomes of a step (60_exceptions.md R310); each leaves the run faulted (R327). -/
inductive Fault where
  /-- Raised by the fetch of `step` when the byte at PC is no opcode of the table: one of the 105 of R97 under the default table (R311). Carries the byte.
  Safe: it is the spec's own outcome, and no state is written. -/
  | unsupportedOpcode (op : Byte)
  /-- Raised by the first address sum above `$FFFF` of the fetch or of the instruction, only with
  `cfg.addrOverflow = .fault` (R56, R312). Carries the un-reduced sum. Safe: it is the spec's own outcome, and nothing is
  claimed of the state after it (U8). -/
  | unmappedAddress (sum : Nat)
deriving DecidableEq, Repr

/-- Why a step has no meaning. No arm of `exec` is refused. -/
inductive Refusal where
  /-- Raised by an arm of `exec` that has no meaning yet, by the row's mnemonic. Safe. -/
  | notModelled (mnemonic : String)
deriving DecidableEq, Repr

/-- What a step, or the meaning of an instruction, answers. -/
abbrev Result := Host.Outcome State Fault Refusal

/-- The machine right after reset: the registers of `defaultInit` (R34, log 2, log 3), no cell of memory listed (R72,
log 4), the recommended parameters (R6, log 5). -/
def State.reset : State where
  a := defaultInit.a
  x := defaultInit.x
  y := defaultInit.y
  sp := defaultInit.sp
  pc := defaultInit.pc
  p := defaultInit.p
  cyc := defaultInit.cyc
  mem := []
  cfg := recommendedConfig

end Sys2Proof.Machine
end

