-- ==== Sys2Proof/Machine/Ops.lean ====
section
/-! DEFINITION. The named operations over registers and memory: the bus (20_memory.md R51, R57 to R61), the stack (R64), the
address-overflow check (R56), the end of a step (30_encoding.md R98), taking the BRK trap and returning from it
(60_exceptions.md R317, R318), and the host's operations (00_scope.md R10, R11; R70; 70_reset_and_hazards.md R350). -/

namespace Sys2Proof.Machine

/-! ### Register and memory updates -/

def State.setA (s : State) (v : Byte) : State := { s with a := v }
def State.setX (s : State) (v : Byte) : State := { s with x := v }
def State.setY (s : State) (v : Byte) : State := { s with y := v }
def State.setSp (s : State) (v : Byte) : State := { s with sp := v }
def State.setPc (s : State) (v : Addr) : State := { s with pc := v }
def State.setP (s : State) (v : Byte) : State := { s with p := v }
def State.addCyc (s : State) (n : Nat) : State := { s with cyc := s.cyc + n }
def State.setMem (s : State) (m : Memory) : State := { s with mem := m }

/-! ### The bus -/

/-- `MemRead(addr, 1)`: pure and total (R51, R52). -/
def State.read (s : State) (addr : Addr) : Byte := s.mem.readAt s.cfg.memoryMap addr

/-- `MemWrite(addr, 1, v)` by the region rules of the memory behind the bus (R51). -/
def State.write (s : State) (addr : Addr) (v : Byte) : State := s.setMem (s.mem.writeAt s.cfg.memoryMap addr v)

/-- The host's raw access to the backing array between steps: it bypasses the write discard, not the mirrors (R70, R72; log 15,
and log 25 for a substitute memory). -/
def State.poke (s : State) (addr : Addr) (v : Byte) : State :=
  s.setMem (s.mem.store (cellOf s.cfg.memoryMap addr) v)

/-- The host loads consecutive bytes from an address up (R70). -/
def State.pokeAll (s : State) (addr : Addr) (bytes : List Byte) : State :=
  match bytes with
  | [] => s
  | b :: rest => State.pokeAll (s.poke addr b) (addr + 1) rest

/-- `MemRead(addr, 2)`, low byte first (R8); used only for the BRK vector. -/
def State.readWord (s : State) (addr : Addr) : Addr := hiLo (s.read (addr + 1)) (s.read addr)

/-! ### The stack -/

/-- `$0100 + SP`, the address `$01:SP` (R21, R64). -/
def stackAddr (sp : Byte) : Addr := hiLo 0x01 sp

/-- `Push(v)` (R64). -/
def State.push (s : State) (v : Byte) : State := (s.write (stackAddr s.sp) v).setSp (s.sp - 1)

/-- The byte `Pull()` returns: SP is incremented, then the cell is read (R64, D9). -/
def State.pullByte (s : State) : Byte := s.read (stackAddr (s.sp + 1))

/-- The state `Pull()` leaves; the cell is not erased (R64). -/
def State.pulled (s : State) : State := s.setSp (s.sp + 1)

/-! ### Address overflow and the end of a step -/

/-- The check of an un-reduced address sum: with `ADDR_OVERFLOW = fault` a sum above `$FFFF` ends the step with
`UnmappedAddress(sum)`; with `wrap` the sum is reduced by its user (R56, R312, D7). -/
def checked (s : State) (sum : Nat) (k : Result) : Result :=
  match s.cfg.addrOverflow with
  | .wrap => k
  | .fault => if 0xFFFF < sum then .fault (.unmappedAddress sum) else k

/-- The end of a step that did not write PC: `PC <- (PC + bytes) mod 65536; CYC <- CYC + cycles` (R98). -/
def advance (s : State) (bytes cycles : Nat) : Result :=
  checked s (s.pc.toNat + bytes) (.next ((s.setPc (s.pc + BitVec.ofNat 16 bytes)).addCyc cycles))

/-- The end of a step that wrote PC: `PC <- target; CYC <- CYC + cycles` (R98). -/
def jumpTo (s : State) (target : Addr) (cycles : Nat) : Result := .next ((s.setPc target).addCyc cycles)

/-! ### Base cycles -/

/-- `base <- InstructionTable[op].base_cycles` (R98), `op` being the byte at PC. Where `op` is not an opcode of the instruction (only
where an instruction runs that `step` has not fetched), the first row of its mnemonic and mode, in the table of the machine or
else in the default one (log 26). -/
def baseCycles (d : Descriptor) (s : State) : Nat :=
  let fetched := (describe s.cfg.table (s.read s.pc)).filter fun r => r.mnemonic == d.mnemonic && r.mode == d.operand.mode
  match fetched with
  | some r => r.base
  | none => (rowFor (s.cfg.table ++ standardTable) d.mnemonic d.operand.mode).elim 0 TableRow.base

/-! ### The software interrupt as a trap -/

/-- Trap entry (R317, R220): the return address (high byte first) and the status with Break forced on are pushed, I is set in
the live register, and PC is loaded from the vector `$FFFE/$FFFF`, read after the pushes (R71). -/
def enterTrap (s : State) (ret : Addr) : State :=
  let s3 := ((s.push (page ret)).push (lowByte ret)).push (pushedStatus s.p)
  let s4 := s3.setP (setFlag .i true s3.p)
  s4.setPc (s4.readWord 0xFFFE)

/-- Trap return (R318, R221): P is pulled (bit 5 forced on, bit 4 as pulled), then the low and the high byte of PC; no +1. -/
def leaveTrap (s : State) : State :=
  let s1 := s.pulled
  let s2 := s1.pulled
  ((s2.pulled.setP (rtiStatus s.pullByte))).setPc (hiLo s2.pullByte s1.pullByte)

/-! ### The host's operations -/

/-- `Reset(init)` (R350): the seven registers are loaded, Unused forced on; memory is neither read nor written. -/
def State.resetTo (s : State) (init : ResetInit) : State :=
  { s with
    pc := init.pc
    sp := init.sp
    a := init.a
    x := init.x
    y := init.y
    p := resetStatus init.p
    cyc := init.cyc }

/-- The seven observable outputs of the core, as the record a reset would reload them from (R10). -/
def State.outputs (s : State) : ResetInit where
  pc := s.pc
  sp := s.sp
  a := s.a
  x := s.x
  y := s.y
  p := s.p
  cyc := s.cyc

end Sys2Proof.Machine
end

