-- ==== Sys2Proof/Machine/Operands.lean ====
section
/-! DEFINITION. The addressing modes (40_addressing_modes.md R121 to R133) and the paths on which an instruction uses its
operand: read (R134), write (R135), read-modify-write (R136), accumulator (R122), none (R121), branch (R132, R194). -/

namespace Sys2Proof.Machine

/-! ### Effective addresses -/

/-- The address of a zero-page pointer's second byte: `(zp + 1) mod 256` with `ZP_POINTER_WRAP`, else the next address,
which is `$0100` after `$FF` (R130, R131, D8). -/
def pointerHighAddr (s : State) (zp : Byte) : Addr :=
  if s.cfg.zpPointerWrap then zext16 (zp + 1) else zext16 zp + 1

/-- The 16-bit pointer at a zero-page address, low byte first (R130, R131). -/
def zeroPagePointer (s : State) (zp : Byte) : Addr := hiLo (s.read (pointerHighAddr s zp)) (s.read (zext16 zp))

/-- The address before the 16-bit index is added, and that index; the modes without such an index add 0 (R124 to R131). -/
def baseAndIndex (m : MemOperand) (s : State) : Addr × Byte :=
  match m with
  | .zp b => (zext16 b, 0)                      -- R124
  | .zpX b => (zext16 (b + s.x), 0)             -- R125: 8-bit wrap
  | .zpY b => (zext16 (b + s.y), 0)             -- R126
  | .abs a => (a, 0)                            -- R127
  | .absX a => (a, s.x)                         -- R128
  | .absY a => (a, s.y)                         -- R129
  | .indX b => (zeroPagePointer s (b + s.x), 0) -- R130
  | .indY b => (zeroPagePointer s b, s.y)       -- R131

/-- The effective address, reduced modulo 65536 (R124 to R131, R56). -/
def effAddr (m : MemOperand) (s : State) : Addr :=
  (baseAndIndex m s).1 + zext16 (baseAndIndex m s).2

/-- The un-reduced sum that gives the effective address (R56). -/
def addrSum (m : MemOperand) (s : State) : Nat :=
  (baseAndIndex m s).1.toNat + (baseAndIndex m s).2.toNat

/-- `crossed`: "the addition changes the high byte" (R128, R129, R131). -/
def crossed (m : MemOperand) (s : State) : Bool :=
  page (effAddr m s) != page (baseAndIndex m s).1

/-- Where JMP indirect finds the high byte of its target: always in the page of the pointer (R133). -/
def indirectHighAddr (ptr : Addr) : Addr := hiLo (page ptr) (lowByte ptr + 1)

/-- The target of JMP indirect (R133). -/
def indirectTarget (ptr : Addr) (s : State) : Addr := hiLo (s.read (indirectHighAddr ptr)) (s.read ptr)

/-! ### The paths -/

/-- `ReadOperand(IMM)`: the operand byte itself, no address and no penalty (R123, R134). -/
def readImm (d : Descriptor) (v : Byte) (f : Byte → State → State) (s : State) : Result :=
  advance (f v s) d.bytes (baseCycles d s)

/-- The penalty of the read path: 1 where the row takes it and the page is crossed (R134, R137, R99). -/
def readPenalty (d : Descriptor) (m : MemOperand) (s : State) : Nat :=
  if d.pageCross && crossed m s then 1 else 0

/-- `ReadOperand(mode)` of a memory operand, then the instruction's effect `f` on the byte read (R134). -/
def readMem (d : Descriptor) (m : MemOperand) (f : Byte → State → State) (s : State) : Result :=
  checked s (addrSum m s)
    (advance (f (s.read (effAddr m s)) s) d.bytes (baseCycles d s + readPenalty d m s))

/-- `WriteOperand(mode, v)`: the cell is not read, no penalty (R135). -/
def writeMem (d : Descriptor) (m : MemOperand) (v : Byte) (s : State) : Result :=
  checked s (addrSum m s) (advance (s.write (effAddr m s) v) d.bytes (baseCycles d s))

/-- The penalty of the read-modify-write path: none, unless `RMW_PAGE_PENALTY` (R136, R137, D10). -/
def modifyPenalty (m : MemOperand) (s : State) : Nat :=
  if s.cfg.rmwPagePenalty && crossed m s then 1 else 0

/-- `ModifyOperand(mode, f)`: one read, one write of the new byte to the same address; `f` also gives the new P (R136). -/
def modifyMem (d : Descriptor) (m : MemOperand) (f : Byte → Byte → Byte × Byte) (s : State) : Result :=
  let r := f (s.read (effAddr m s)) s.p
  checked s (addrSum m s)
    (advance ((s.write (effAddr m s) r.1).setP r.2) d.bytes (baseCycles d s + modifyPenalty m s))

/-- Accumulator mode: `A <- f(A)`, no memory access (R122, R175). -/
def modifyA (d : Descriptor) (f : Byte → Byte → Byte × Byte) (s : State) : Result :=
  let r := f s.a s.p
  advance ((s.setA r.1).setP r.2) d.bytes (baseCycles d s)

/-- Implied mode: the effect is on fixed registers, flags or the stack (R121). -/
def implied (d : Descriptor) (f : State → State) (s : State) : Result :=
  advance (f s) d.bytes (baseCycles d s)

/-- The un-reduced branch target `next + disp`, the displacement read as two's complement (R132, R194). A negative sum
passes no top of memory and wraps. DEDUCED (log 7). -/
def branchSum (next : Addr) (disp : Byte) : Nat := ((next.toNat : Int) + disp.toInt).toNat

/-- `Branch(flag, want)` (R194), `taken` being the test's outcome. -/
def branch (d : Descriptor) (disp : Byte) (taken : Bool) (s : State) : Result :=
  if taken then
    let next := s.pc + 2
    let target := next + sext16 disp
    checked s (s.pc.toNat + 2) (checked s (branchSum next disp)
      (jumpTo s target (baseCycles d s + 1 + if page target != page next then 1 else 0)))
  else advance s d.bytes (baseCycles d s)

end Sys2Proof.Machine
end

