-- ==== Sys2Proof/Machine/Arith.lean ====
section
/-! DEFINITION. Arithmetic and compare (41_arithmetic_compare.md): ADC, SBC, CMP, CPX, CPY. -/

namespace Sys2Proof.Machine

/-- `AddWithCarry(v)` (R150); binary whatever P.D holds (R153). -/
def addWithCarry (v : Byte) (s : State) : State :=
  (s.setA (BitVec.ofNat 8 (addSum s.a v s.p))).setP (addFlags s.a v s.p)

/-- `SubtractWithBorrow(v)` (R151); binary whatever P.D holds (R153). -/
def subtractWithBorrow (v : Byte) (s : State) : State :=
  (s.setA (BitVec.ofInt 8 (subDiff s.a v s.p))).setP (subFlags s.a v s.p)

/-- `Compare(A, v)` (R152, R156). -/
def compareA (v : Byte) (s : State) : State := s.setP (compareFlags s.a v s.p)

/-- `Compare(X, v)` (R152, R157). -/
def compareX (v : Byte) (s : State) : State := s.setP (compareFlags s.x v s.p)

/-- `Compare(Y, v)` (R152, R158). -/
def compareY (v : Byte) (s : State) : State := s.setP (compareFlags s.y v s.p)

/-- R154, ADC #$nn. -/
def execAdcImm (imm : Byte) (s : State) : Result := readImm (Instr.adcImm imm).desc imm addWithCarry s

/-- R154, ADC $nn. -/
def execAdcZp (zp : Byte) (s : State) : Result := readMem (Instr.adcZp zp).desc (.zp zp) addWithCarry s

/-- R154, ADC $nn,X. -/
def execAdcZpX (zp : Byte) (s : State) : Result := readMem (Instr.adcZpX zp).desc (.zpX zp) addWithCarry s

/-- R154, ADC $nnnn. -/
def execAdcAbs (abs : Addr) (s : State) : Result := readMem (Instr.adcAbs abs).desc (.abs abs) addWithCarry s

/-- R154, ADC $nnnn,X. -/
def execAdcAbsX (abs : Addr) (s : State) : Result := readMem (Instr.adcAbsX abs).desc (.absX abs) addWithCarry s

/-- R154, ADC $nnnn,Y. -/
def execAdcAbsY (abs : Addr) (s : State) : Result := readMem (Instr.adcAbsY abs).desc (.absY abs) addWithCarry s

/-- R154, ADC ($nn,X). -/
def execAdcIndX (zp : Byte) (s : State) : Result := readMem (Instr.adcIndX zp).desc (.indX zp) addWithCarry s

/-- R154, ADC ($nn),Y. -/
def execAdcIndY (zp : Byte) (s : State) : Result := readMem (Instr.adcIndY zp).desc (.indY zp) addWithCarry s

/-- R155, SBC #$nn. -/
def execSbcImm (imm : Byte) (s : State) : Result := readImm (Instr.sbcImm imm).desc imm subtractWithBorrow s

/-- R155, SBC $nn. -/
def execSbcZp (zp : Byte) (s : State) : Result := readMem (Instr.sbcZp zp).desc (.zp zp) subtractWithBorrow s

/-- R155, SBC $nn,X. -/
def execSbcZpX (zp : Byte) (s : State) : Result := readMem (Instr.sbcZpX zp).desc (.zpX zp) subtractWithBorrow s

/-- R155, SBC $nnnn. -/
def execSbcAbs (abs : Addr) (s : State) : Result := readMem (Instr.sbcAbs abs).desc (.abs abs) subtractWithBorrow s

/-- R155, SBC $nnnn,X. -/
def execSbcAbsX (abs : Addr) (s : State) : Result := readMem (Instr.sbcAbsX abs).desc (.absX abs) subtractWithBorrow s

/-- R155, SBC $nnnn,Y. -/
def execSbcAbsY (abs : Addr) (s : State) : Result := readMem (Instr.sbcAbsY abs).desc (.absY abs) subtractWithBorrow s

/-- R155, SBC ($nn,X). -/
def execSbcIndX (zp : Byte) (s : State) : Result := readMem (Instr.sbcIndX zp).desc (.indX zp) subtractWithBorrow s

/-- R155, SBC ($nn),Y. -/
def execSbcIndY (zp : Byte) (s : State) : Result := readMem (Instr.sbcIndY zp).desc (.indY zp) subtractWithBorrow s

/-- R156, CMP #$nn. -/
def execCmpImm (imm : Byte) (s : State) : Result := readImm (Instr.cmpImm imm).desc imm compareA s

/-- R156, CMP $nn. -/
def execCmpZp (zp : Byte) (s : State) : Result := readMem (Instr.cmpZp zp).desc (.zp zp) compareA s

/-- R156, CMP $nn,X. -/
def execCmpZpX (zp : Byte) (s : State) : Result := readMem (Instr.cmpZpX zp).desc (.zpX zp) compareA s

/-- R156, CMP $nnnn. -/
def execCmpAbs (abs : Addr) (s : State) : Result := readMem (Instr.cmpAbs abs).desc (.abs abs) compareA s

/-- R156, CMP $nnnn,X. -/
def execCmpAbsX (abs : Addr) (s : State) : Result := readMem (Instr.cmpAbsX abs).desc (.absX abs) compareA s

/-- R156, CMP $nnnn,Y. -/
def execCmpAbsY (abs : Addr) (s : State) : Result := readMem (Instr.cmpAbsY abs).desc (.absY abs) compareA s

/-- R156, CMP ($nn,X). -/
def execCmpIndX (zp : Byte) (s : State) : Result := readMem (Instr.cmpIndX zp).desc (.indX zp) compareA s

/-- R156, CMP ($nn),Y. -/
def execCmpIndY (zp : Byte) (s : State) : Result := readMem (Instr.cmpIndY zp).desc (.indY zp) compareA s

/-- R157, CPX #$nn. -/
def execCpxImm (imm : Byte) (s : State) : Result := readImm (Instr.cpxImm imm).desc imm compareX s

/-- R157, CPX $nn. -/
def execCpxZp (zp : Byte) (s : State) : Result := readMem (Instr.cpxZp zp).desc (.zp zp) compareX s

/-- R157, CPX $nnnn. -/
def execCpxAbs (abs : Addr) (s : State) : Result := readMem (Instr.cpxAbs abs).desc (.abs abs) compareX s

/-- R158, CPY #$nn. -/
def execCpyImm (imm : Byte) (s : State) : Result := readImm (Instr.cpyImm imm).desc imm compareY s

/-- R158, CPY $nn. -/
def execCpyZp (zp : Byte) (s : State) : Result := readMem (Instr.cpyZp zp).desc (.zp zp) compareY s

/-- R158, CPY $nnnn. -/
def execCpyAbs (abs : Addr) (s : State) : Result := readMem (Instr.cpyAbs abs).desc (.abs abs) compareY s

end Sys2Proof.Machine
end

