-- ==== Sys2Proof/Machine/Control.lean ====
section
/-! DEFINITION. Control transfer (43_control_transfer.md): JMP, JSR, RTS and the eight conditional branches. -/

namespace Sys2Proof.Machine

/-- R190: `PC <- b2:b1`. -/
def execJmpAbs (abs : Addr) (s : State) : Result := jumpTo s abs (baseCycles (Instr.jmpAbs abs).desc s)

/-- R191: `PC <- Indirect(b2:b1)`, the page bug included (R133). -/
def execJmpInd (ptr : Addr) (s : State) : Result := jumpTo s (indirectTarget ptr s) (baseCycles (Instr.jmpInd ptr).desc s)

/-- R192: pushes the address of its own last byte, high byte first, then jumps. Both operand bytes were fetched before (R71). -/
def execJsr (abs : Addr) (s : State) : Result :=
  let ret := s.pc + 2
  checked s (s.pc.toNat + 2) (jumpTo ((s.push (page ret)).push (lowByte ret)) abs (baseCycles (Instr.jsr abs).desc s))

/-- R193: pulls the low then the high byte and continues at that address plus 1. -/
def execRts (s : State) : Result :=
  let ret := hiLo s.pulled.pullByte s.pullByte
  checked s (ret.toNat + 1) (jumpTo s.pulled.pulled (ret + 1) (baseCycles Instr.rts.desc s))

/-- R195, BCC rel. -/
def execBcc (disp : Byte) (s : State) : Result := branch (Instr.bcc disp).desc disp (!getFlag .c s.p) s

/-- R196, BCS rel. -/
def execBcs (disp : Byte) (s : State) : Result := branch (Instr.bcs disp).desc disp (getFlag .c s.p) s

/-- R197, BEQ rel. -/
def execBeq (disp : Byte) (s : State) : Result := branch (Instr.beq disp).desc disp (getFlag .z s.p) s

/-- R198, BNE rel. -/
def execBne (disp : Byte) (s : State) : Result := branch (Instr.bne disp).desc disp (!getFlag .z s.p) s

/-- R199, BMI rel. -/
def execBmi (disp : Byte) (s : State) : Result := branch (Instr.bmi disp).desc disp (getFlag .n s.p) s

/-- R200, BPL rel. -/
def execBpl (disp : Byte) (s : State) : Result := branch (Instr.bpl disp).desc disp (!getFlag .n s.p) s

/-- R201, BVC rel. -/
def execBvc (disp : Byte) (s : State) : Result := branch (Instr.bvc disp).desc disp (!getFlag .v s.p) s

/-- R202, BVS rel. -/
def execBvs (disp : Byte) (s : State) : Result := branch (Instr.bvs disp).desc disp (getFlag .v s.p) s

end Sys2Proof.Machine
end

