-- ==== Sys2Proof/Machine/LoadStore.lean ====
section
/-! DEFINITION. Loads, stores and register transfers (45_load_store_transfer.md). -/

namespace Sys2Proof.Machine

/-- `A <- v; SetZN(A)` (R240, R248, R249). -/
def loadA (v : Byte) (s : State) : State := (s.setA v).setP (setZN v s.p)

/-- `X <- v; SetZN(X)` (R241, R246, R250). -/
def loadX (v : Byte) (s : State) : State := (s.setX v).setP (setZN v s.p)

/-- `Y <- v; SetZN(Y)` (R242, R247). -/
def loadY (v : Byte) (s : State) : State := (s.setY v).setP (setZN v s.p)

/-- R240, LDA #$nn. -/
def execLdaImm (imm : Byte) (s : State) : Result := readImm (Instr.ldaImm imm).desc imm loadA s

/-- R240, LDA $nn. -/
def execLdaZp (zp : Byte) (s : State) : Result := readMem (Instr.ldaZp zp).desc (.zp zp) loadA s

/-- R240, LDA $nn,X. -/
def execLdaZpX (zp : Byte) (s : State) : Result := readMem (Instr.ldaZpX zp).desc (.zpX zp) loadA s

/-- R240, LDA $nnnn. -/
def execLdaAbs (abs : Addr) (s : State) : Result := readMem (Instr.ldaAbs abs).desc (.abs abs) loadA s

/-- R240, LDA $nnnn,X. -/
def execLdaAbsX (abs : Addr) (s : State) : Result := readMem (Instr.ldaAbsX abs).desc (.absX abs) loadA s

/-- R240, LDA $nnnn,Y. -/
def execLdaAbsY (abs : Addr) (s : State) : Result := readMem (Instr.ldaAbsY abs).desc (.absY abs) loadA s

/-- R240, LDA ($nn,X). -/
def execLdaIndX (zp : Byte) (s : State) : Result := readMem (Instr.ldaIndX zp).desc (.indX zp) loadA s

/-- R240, LDA ($nn),Y. -/
def execLdaIndY (zp : Byte) (s : State) : Result := readMem (Instr.ldaIndY zp).desc (.indY zp) loadA s

/-- R241, LDX #$nn. -/
def execLdxImm (imm : Byte) (s : State) : Result := readImm (Instr.ldxImm imm).desc imm loadX s

/-- R241, LDX $nn. -/
def execLdxZp (zp : Byte) (s : State) : Result := readMem (Instr.ldxZp zp).desc (.zp zp) loadX s

/-- R241, LDX $nn,Y. -/
def execLdxZpY (zp : Byte) (s : State) : Result := readMem (Instr.ldxZpY zp).desc (.zpY zp) loadX s

/-- R241, LDX $nnnn. -/
def execLdxAbs (abs : Addr) (s : State) : Result := readMem (Instr.ldxAbs abs).desc (.abs abs) loadX s

/-- R241, LDX $nnnn,Y. -/
def execLdxAbsY (abs : Addr) (s : State) : Result := readMem (Instr.ldxAbsY abs).desc (.absY abs) loadX s

/-- R242, LDY #$nn. -/
def execLdyImm (imm : Byte) (s : State) : Result := readImm (Instr.ldyImm imm).desc imm loadY s

/-- R242, LDY $nn. -/
def execLdyZp (zp : Byte) (s : State) : Result := readMem (Instr.ldyZp zp).desc (.zp zp) loadY s

/-- R242, LDY $nn,X. -/
def execLdyZpX (zp : Byte) (s : State) : Result := readMem (Instr.ldyZpX zp).desc (.zpX zp) loadY s

/-- R242, LDY $nnnn. -/
def execLdyAbs (abs : Addr) (s : State) : Result := readMem (Instr.ldyAbs abs).desc (.abs abs) loadY s

/-- R242, LDY $nnnn,X. -/
def execLdyAbsX (abs : Addr) (s : State) : Result := readMem (Instr.ldyAbsX abs).desc (.absX abs) loadY s

/-- R243, STA $nn. -/
def execStaZp (zp : Byte) (s : State) : Result := writeMem (Instr.staZp zp).desc (.zp zp) s.a s

/-- R243, STA $nn,X. -/
def execStaZpX (zp : Byte) (s : State) : Result := writeMem (Instr.staZpX zp).desc (.zpX zp) s.a s

/-- R243, STA $nnnn. -/
def execStaAbs (abs : Addr) (s : State) : Result := writeMem (Instr.staAbs abs).desc (.abs abs) s.a s

/-- R243, STA $nnnn,X. -/
def execStaAbsX (abs : Addr) (s : State) : Result := writeMem (Instr.staAbsX abs).desc (.absX abs) s.a s

/-- R243, STA $nnnn,Y. -/
def execStaAbsY (abs : Addr) (s : State) : Result := writeMem (Instr.staAbsY abs).desc (.absY abs) s.a s

/-- R243, STA ($nn,X). -/
def execStaIndX (zp : Byte) (s : State) : Result := writeMem (Instr.staIndX zp).desc (.indX zp) s.a s

/-- R243, STA ($nn),Y. -/
def execStaIndY (zp : Byte) (s : State) : Result := writeMem (Instr.staIndY zp).desc (.indY zp) s.a s

/-- R244, STX $nn. -/
def execStxZp (zp : Byte) (s : State) : Result := writeMem (Instr.stxZp zp).desc (.zp zp) s.x s

/-- R244, STX $nn,Y. -/
def execStxZpY (zp : Byte) (s : State) : Result := writeMem (Instr.stxZpY zp).desc (.zpY zp) s.x s

/-- R244, STX $nnnn. -/
def execStxAbs (abs : Addr) (s : State) : Result := writeMem (Instr.stxAbs abs).desc (.abs abs) s.x s

/-- R245, STY $nn. -/
def execStyZp (zp : Byte) (s : State) : Result := writeMem (Instr.styZp zp).desc (.zp zp) s.y s

/-- R245, STY $nn,X. -/
def execStyZpX (zp : Byte) (s : State) : Result := writeMem (Instr.styZpX zp).desc (.zpX zp) s.y s

/-- R245, STY $nnnn. -/
def execStyAbs (abs : Addr) (s : State) : Result := writeMem (Instr.styAbs abs).desc (.abs abs) s.y s

/-- R246, TAX. -/
def execTax (s : State) : Result := implied Instr.tax.desc (fun t => loadX t.a t) s

/-- R247, TAY. -/
def execTay (s : State) : Result := implied Instr.tay.desc (fun t => loadY t.a t) s

/-- R248, TXA. -/
def execTxa (s : State) : Result := implied Instr.txa.desc (fun t => loadA t.x t) s

/-- R249, TYA. -/
def execTya (s : State) : Result := implied Instr.tya.desc (fun t => loadA t.y t) s

/-- R250, TSX. -/
def execTsx (s : State) : Result := implied Instr.tsx.desc (fun t => loadX t.sp t) s

/-- R251, TXS. -/
def execTxs (s : State) : Result := implied Instr.txs.desc (fun t => t.setSp t.x) s

end Sys2Proof.Machine
end

