-- ==== Sys2Proof/Machine/Logic.lean ====
section
/-! DEFINITION. Logic, bit test, increment and decrement, flag instructions, NOP (46_logic_incdec_flags.md). -/

namespace Sys2Proof.Machine

/-- `A <- A & v; SetZN(A)` (R270). -/
def andA (v : Byte) (s : State) : State := loadA (s.a &&& v) s

/-- `A <- A | v; SetZN(A)` (R271). -/
def orA (v : Byte) (s : State) : State := loadA (s.a ||| v) s

/-- `A <- A ^ v; SetZN(A)` (R272). -/
def eorA (v : Byte) (s : State) : State := loadA (s.a ^^^ v) s

/-- BIT's effect: only Z, V and N of P (R273). -/
def testBits (v : Byte) (s : State) : State := s.setP (bitFlags s.a v s.p)

/-- `P.f <- v`, one bit of P and nothing else (R280 to R286). -/
def writeFlag (f : Flag) (v : Bool) (s : State) : State := s.setP (setFlag f v s.p)

/-- R270, AND #$nn. -/
def execAndImm (imm : Byte) (s : State) : Result := readImm (Instr.andImm imm).desc imm andA s

/-- R270, AND $nn. -/
def execAndZp (zp : Byte) (s : State) : Result := readMem (Instr.andZp zp).desc (.zp zp) andA s

/-- R270, AND $nn,X. -/
def execAndZpX (zp : Byte) (s : State) : Result := readMem (Instr.andZpX zp).desc (.zpX zp) andA s

/-- R270, AND $nnnn. -/
def execAndAbs (abs : Addr) (s : State) : Result := readMem (Instr.andAbs abs).desc (.abs abs) andA s

/-- R270, AND $nnnn,X. -/
def execAndAbsX (abs : Addr) (s : State) : Result := readMem (Instr.andAbsX abs).desc (.absX abs) andA s

/-- R270, AND $nnnn,Y. -/
def execAndAbsY (abs : Addr) (s : State) : Result := readMem (Instr.andAbsY abs).desc (.absY abs) andA s

/-- R270, AND ($nn,X). -/
def execAndIndX (zp : Byte) (s : State) : Result := readMem (Instr.andIndX zp).desc (.indX zp) andA s

/-- R270, AND ($nn),Y. -/
def execAndIndY (zp : Byte) (s : State) : Result := readMem (Instr.andIndY zp).desc (.indY zp) andA s

/-- R271, ORA #$nn. -/
def execOraImm (imm : Byte) (s : State) : Result := readImm (Instr.oraImm imm).desc imm orA s

/-- R271, ORA $nn. -/
def execOraZp (zp : Byte) (s : State) : Result := readMem (Instr.oraZp zp).desc (.zp zp) orA s

/-- R271, ORA $nn,X. -/
def execOraZpX (zp : Byte) (s : State) : Result := readMem (Instr.oraZpX zp).desc (.zpX zp) orA s

/-- R271, ORA $nnnn. -/
def execOraAbs (abs : Addr) (s : State) : Result := readMem (Instr.oraAbs abs).desc (.abs abs) orA s

/-- R271, ORA $nnnn,X. -/
def execOraAbsX (abs : Addr) (s : State) : Result := readMem (Instr.oraAbsX abs).desc (.absX abs) orA s

/-- R271, ORA $nnnn,Y. -/
def execOraAbsY (abs : Addr) (s : State) : Result := readMem (Instr.oraAbsY abs).desc (.absY abs) orA s

/-- R271, ORA ($nn,X). -/
def execOraIndX (zp : Byte) (s : State) : Result := readMem (Instr.oraIndX zp).desc (.indX zp) orA s

/-- R271, ORA ($nn),Y. -/
def execOraIndY (zp : Byte) (s : State) : Result := readMem (Instr.oraIndY zp).desc (.indY zp) orA s

/-- R272, EOR #$nn. -/
def execEorImm (imm : Byte) (s : State) : Result := readImm (Instr.eorImm imm).desc imm eorA s

/-- R272, EOR $nn. -/
def execEorZp (zp : Byte) (s : State) : Result := readMem (Instr.eorZp zp).desc (.zp zp) eorA s

/-- R272, EOR $nn,X. -/
def execEorZpX (zp : Byte) (s : State) : Result := readMem (Instr.eorZpX zp).desc (.zpX zp) eorA s

/-- R272, EOR $nnnn. -/
def execEorAbs (abs : Addr) (s : State) : Result := readMem (Instr.eorAbs abs).desc (.abs abs) eorA s

/-- R272, EOR $nnnn,X. -/
def execEorAbsX (abs : Addr) (s : State) : Result := readMem (Instr.eorAbsX abs).desc (.absX abs) eorA s

/-- R272, EOR $nnnn,Y. -/
def execEorAbsY (abs : Addr) (s : State) : Result := readMem (Instr.eorAbsY abs).desc (.absY abs) eorA s

/-- R272, EOR ($nn,X). -/
def execEorIndX (zp : Byte) (s : State) : Result := readMem (Instr.eorIndX zp).desc (.indX zp) eorA s

/-- R272, EOR ($nn),Y. -/
def execEorIndY (zp : Byte) (s : State) : Result := readMem (Instr.eorIndY zp).desc (.indY zp) eorA s

/-- R273, BIT $nn. -/
def execBitZp (zp : Byte) (s : State) : Result := readMem (Instr.bitZp zp).desc (.zp zp) testBits s

/-- R273, BIT $nnnn. -/
def execBitAbs (abs : Addr) (s : State) : Result := readMem (Instr.bitAbs abs).desc (.abs abs) testBits s

/-- R274, INC $nn. -/
def execIncZp (zp : Byte) (s : State) : Result := modifyMem (Instr.incZp zp).desc (.zp zp) increment s

/-- R274, INC $nn,X. -/
def execIncZpX (zp : Byte) (s : State) : Result := modifyMem (Instr.incZpX zp).desc (.zpX zp) increment s

/-- R274, INC $nnnn. -/
def execIncAbs (abs : Addr) (s : State) : Result := modifyMem (Instr.incAbs abs).desc (.abs abs) increment s

/-- R274, INC $nnnn,X. -/
def execIncAbsX (abs : Addr) (s : State) : Result := modifyMem (Instr.incAbsX abs).desc (.absX abs) increment s

/-- R275, DEC $nn. -/
def execDecZp (zp : Byte) (s : State) : Result := modifyMem (Instr.decZp zp).desc (.zp zp) decrement s

/-- R275, DEC $nn,X. -/
def execDecZpX (zp : Byte) (s : State) : Result := modifyMem (Instr.decZpX zp).desc (.zpX zp) decrement s

/-- R275, DEC $nnnn. -/
def execDecAbs (abs : Addr) (s : State) : Result := modifyMem (Instr.decAbs abs).desc (.abs abs) decrement s

/-- R275, DEC $nnnn,X. -/
def execDecAbsX (abs : Addr) (s : State) : Result := modifyMem (Instr.decAbsX abs).desc (.absX abs) decrement s

/-- R276, INX. -/
def execInx (s : State) : Result := implied Instr.inx.desc (fun t => loadX (t.x + 1) t) s

/-- R277, INY. -/
def execIny (s : State) : Result := implied Instr.iny.desc (fun t => loadY (t.y + 1) t) s

/-- R278, DEX. -/
def execDex (s : State) : Result := implied Instr.dex.desc (fun t => loadX (t.x - 1) t) s

/-- R279, DEY. -/
def execDey (s : State) : Result := implied Instr.dey.desc (fun t => loadY (t.y - 1) t) s

/-- R280, CLC. -/
def execClc (s : State) : Result := implied Instr.clc.desc (writeFlag .c false) s

/-- R281, SEC. -/
def execSec (s : State) : Result := implied Instr.sec.desc (writeFlag .c true) s

/-- R282, CLI. -/
def execCli (s : State) : Result := implied Instr.cli.desc (writeFlag .i false) s

/-- R283, SEI. -/
def execSei (s : State) : Result := implied Instr.sei.desc (writeFlag .i true) s

/-- R284, CLV. -/
def execClv (s : State) : Result := implied Instr.clv.desc (writeFlag .v false) s

/-- R285, CLD. -/
def execCld (s : State) : Result := implied Instr.cld.desc (writeFlag .d false) s

/-- R286, SED. -/
def execSed (s : State) : Result := implied Instr.sed.desc (writeFlag .d true) s

/-- R287, NOP. -/
def execNop (s : State) : Result := implied Instr.nop.desc (fun t => t) s

end Sys2Proof.Machine
end

