-- ==== Sys2Proof/Machine/Shift.lean ====
section
/-! DEFINITION. Shift and rotate (42_shift_rotate.md): ASL, LSR, ROL, ROR on A or on a memory byte (R175). -/

namespace Sys2Proof.Machine

/-- R171, ASL A. -/
def execAslAcc (s : State) : Result := modifyA Instr.aslAcc.desc shiftLeft s

/-- R171, ASL $nn. -/
def execAslZp (zp : Byte) (s : State) : Result := modifyMem (Instr.aslZp zp).desc (.zp zp) shiftLeft s

/-- R171, ASL $nn,X. -/
def execAslZpX (zp : Byte) (s : State) : Result := modifyMem (Instr.aslZpX zp).desc (.zpX zp) shiftLeft s

/-- R171, ASL $nnnn. -/
def execAslAbs (abs : Addr) (s : State) : Result := modifyMem (Instr.aslAbs abs).desc (.abs abs) shiftLeft s

/-- R171, ASL $nnnn,X. -/
def execAslAbsX (abs : Addr) (s : State) : Result := modifyMem (Instr.aslAbsX abs).desc (.absX abs) shiftLeft s

/-- R172, LSR A. -/
def execLsrAcc (s : State) : Result := modifyA Instr.lsrAcc.desc shiftRight s

/-- R172, LSR $nn. -/
def execLsrZp (zp : Byte) (s : State) : Result := modifyMem (Instr.lsrZp zp).desc (.zp zp) shiftRight s

/-- R172, LSR $nn,X. -/
def execLsrZpX (zp : Byte) (s : State) : Result := modifyMem (Instr.lsrZpX zp).desc (.zpX zp) shiftRight s

/-- R172, LSR $nnnn. -/
def execLsrAbs (abs : Addr) (s : State) : Result := modifyMem (Instr.lsrAbs abs).desc (.abs abs) shiftRight s

/-- R172, LSR $nnnn,X. -/
def execLsrAbsX (abs : Addr) (s : State) : Result := modifyMem (Instr.lsrAbsX abs).desc (.absX abs) shiftRight s

/-- R173, ROL A. -/
def execRolAcc (s : State) : Result := modifyA Instr.rolAcc.desc rotateLeft s

/-- R173, ROL $nn. -/
def execRolZp (zp : Byte) (s : State) : Result := modifyMem (Instr.rolZp zp).desc (.zp zp) rotateLeft s

/-- R173, ROL $nn,X. -/
def execRolZpX (zp : Byte) (s : State) : Result := modifyMem (Instr.rolZpX zp).desc (.zpX zp) rotateLeft s

/-- R173, ROL $nnnn. -/
def execRolAbs (abs : Addr) (s : State) : Result := modifyMem (Instr.rolAbs abs).desc (.abs abs) rotateLeft s

/-- R173, ROL $nnnn,X. -/
def execRolAbsX (abs : Addr) (s : State) : Result := modifyMem (Instr.rolAbsX abs).desc (.absX abs) rotateLeft s

/-- R174, ROR A. -/
def execRorAcc (s : State) : Result := modifyA Instr.rorAcc.desc rotateRight s

/-- R174, ROR $nn. -/
def execRorZp (zp : Byte) (s : State) : Result := modifyMem (Instr.rorZp zp).desc (.zp zp) rotateRight s

/-- R174, ROR $nn,X. -/
def execRorZpX (zp : Byte) (s : State) : Result := modifyMem (Instr.rorZpX zp).desc (.zpX zp) rotateRight s

/-- R174, ROR $nnnn. -/
def execRorAbs (abs : Addr) (s : State) : Result := modifyMem (Instr.rorAbs abs).desc (.abs abs) rotateRight s

/-- R174, ROR $nnnn,X. -/
def execRorAbsX (abs : Addr) (s : State) : Result := modifyMem (Instr.rorAbsX abs).desc (.absX abs) rotateRight s

end Sys2Proof.Machine
end

