-- ==== Sys2Proof/Machine/Stack.lean ====
section
/-! DEFINITION. Software interrupt, return and stack instructions (44_stack_system.md): BRK, RTI, PHA, PHP, PLA, PLP. -/

namespace Sys2Proof.Machine

/-- `A <- v; SetZN(v)` (R224). -/
def pullA (s : State) : State := (s.pulled.setA s.pullByte).setP (setZN s.pullByte s.p)

/-- `P <- (p & $EF) | $20` of the pulled byte (R225). -/
def pullP (s : State) : State := s.pulled.setP (plpStatus s.pullByte)

/-- `Push(A)` (R222). -/
def pushA (s : State) : State := s.push s.a

/-- `Push(P | $10)`; the live P is not changed (R223). -/
def pushP (s : State) : State := s.push (pushedStatus s.p)

/-- R220: with I clear, the trap of R317 with the return address PC + 1 (D5); with I set, skipped: only PC and CYC advance, by
BRK_LENGTH and BRK_SKIPPED_CYCLES (D4, D6). -/
def execBrk (s : State) : Result :=
  if getFlag .i s.p then advance s s.cfg.brkLength s.cfg.brkSkippedCycles
  else checked s (s.pc.toNat + 1) (.next ((enterTrap s (s.pc + 1)).addCyc (baseCycles Instr.brk.desc s)))

/-- R221: the return of R318. -/
def execRti (s : State) : Result := .next ((leaveTrap s).addCyc (baseCycles Instr.rti.desc s))

/-- R222, PHA. -/
def execPha (s : State) : Result := implied Instr.pha.desc pushA s

/-- R223, PHP. -/
def execPhp (s : State) : Result := implied Instr.php.desc pushP s

/-- R224, PLA. -/
def execPla (s : State) : Result := implied Instr.pla.desc pullA s

/-- R225, PLP. -/
def execPlp (s : State) : Result := implied Instr.plp.desc pullP s

end Sys2Proof.Machine
end

