-- ==== Sys2Proof/Machine/Dispatch.lean ====
section
/-! DEFINITION. The dispatch: one arm per constructor of Instr, each one direct call of its meaning (30_encoding.md R98). -/

namespace Sys2Proof.Machine

open Sys2Proof (Instr)

def exec (i : Instr) (s : State) : Host.Outcome State Fault Refusal :=
  match i with
  | .adcImm imm => Sys2Proof.Machine.execAdcImm imm s
  | .adcZp zp => Sys2Proof.Machine.execAdcZp zp s
  | .adcZpX zp => Sys2Proof.Machine.execAdcZpX zp s
  | .adcAbs abs => Sys2Proof.Machine.execAdcAbs abs s
  | .adcAbsX abs => Sys2Proof.Machine.execAdcAbsX abs s
  | .adcAbsY abs => Sys2Proof.Machine.execAdcAbsY abs s
  | .adcIndX zp => Sys2Proof.Machine.execAdcIndX zp s
  | .adcIndY zp => Sys2Proof.Machine.execAdcIndY zp s
  | .sbcImm imm => Sys2Proof.Machine.execSbcImm imm s
  | .sbcZp zp => Sys2Proof.Machine.execSbcZp zp s
  | .sbcZpX zp => Sys2Proof.Machine.execSbcZpX zp s
  | .sbcAbs abs => Sys2Proof.Machine.execSbcAbs abs s
  | .sbcAbsX abs => Sys2Proof.Machine.execSbcAbsX abs s
  | .sbcAbsY abs => Sys2Proof.Machine.execSbcAbsY abs s
  | .sbcIndX zp => Sys2Proof.Machine.execSbcIndX zp s
  | .sbcIndY zp => Sys2Proof.Machine.execSbcIndY zp s
  | .cmpImm imm => Sys2Proof.Machine.execCmpImm imm s
  | .cmpZp zp => Sys2Proof.Machine.execCmpZp zp s
  | .cmpZpX zp => Sys2Proof.Machine.execCmpZpX zp s
  | .cmpAbs abs => Sys2Proof.Machine.execCmpAbs abs s
  | .cmpAbsX abs => Sys2Proof.Machine.execCmpAbsX abs s
  | .cmpAbsY abs => Sys2Proof.Machine.execCmpAbsY abs s
  | .cmpIndX zp => Sys2Proof.Machine.execCmpIndX zp s
  | .cmpIndY zp => Sys2Proof.Machine.execCmpIndY zp s
  | .cpxImm imm => Sys2Proof.Machine.execCpxImm imm s
  | .cpxZp zp => Sys2Proof.Machine.execCpxZp zp s
  | .cpxAbs abs => Sys2Proof.Machine.execCpxAbs abs s
  | .cpyImm imm => Sys2Proof.Machine.execCpyImm imm s
  | .cpyZp zp => Sys2Proof.Machine.execCpyZp zp s
  | .cpyAbs abs => Sys2Proof.Machine.execCpyAbs abs s
  | .aslAcc => Sys2Proof.Machine.execAslAcc s
  | .aslZp zp => Sys2Proof.Machine.execAslZp zp s
  | .aslZpX zp => Sys2Proof.Machine.execAslZpX zp s
  | .aslAbs abs => Sys2Proof.Machine.execAslAbs abs s
  | .aslAbsX abs => Sys2Proof.Machine.execAslAbsX abs s
  | .lsrAcc => Sys2Proof.Machine.execLsrAcc s
  | .lsrZp zp => Sys2Proof.Machine.execLsrZp zp s
  | .lsrZpX zp => Sys2Proof.Machine.execLsrZpX zp s
  | .lsrAbs abs => Sys2Proof.Machine.execLsrAbs abs s
  | .lsrAbsX abs => Sys2Proof.Machine.execLsrAbsX abs s
  | .rolAcc => Sys2Proof.Machine.execRolAcc s
  | .rolZp zp => Sys2Proof.Machine.execRolZp zp s
  | .rolZpX zp => Sys2Proof.Machine.execRolZpX zp s
  | .rolAbs abs => Sys2Proof.Machine.execRolAbs abs s
  | .rolAbsX abs => Sys2Proof.Machine.execRolAbsX abs s
  | .rorAcc => Sys2Proof.Machine.execRorAcc s
  | .rorZp zp => Sys2Proof.Machine.execRorZp zp s
  | .rorZpX zp => Sys2Proof.Machine.execRorZpX zp s
  | .rorAbs abs => Sys2Proof.Machine.execRorAbs abs s
  | .rorAbsX abs => Sys2Proof.Machine.execRorAbsX abs s
  | .jmpAbs abs => Sys2Proof.Machine.execJmpAbs abs s
  | .jmpInd ptr => Sys2Proof.Machine.execJmpInd ptr s
  | .jsr abs => Sys2Proof.Machine.execJsr abs s
  | .rts => Sys2Proof.Machine.execRts s
  | .bcc disp => Sys2Proof.Machine.execBcc disp s
  | .bcs disp => Sys2Proof.Machine.execBcs disp s
  | .beq disp => Sys2Proof.Machine.execBeq disp s
  | .bne disp => Sys2Proof.Machine.execBne disp s
  | .bmi disp => Sys2Proof.Machine.execBmi disp s
  | .bpl disp => Sys2Proof.Machine.execBpl disp s
  | .bvc disp => Sys2Proof.Machine.execBvc disp s
  | .bvs disp => Sys2Proof.Machine.execBvs disp s
  | .brk => Sys2Proof.Machine.execBrk s
  | .rti => Sys2Proof.Machine.execRti s
  | .pha => Sys2Proof.Machine.execPha s
  | .php => Sys2Proof.Machine.execPhp s
  | .pla => Sys2Proof.Machine.execPla s
  | .plp => Sys2Proof.Machine.execPlp s
  | .ldaImm imm => Sys2Proof.Machine.execLdaImm imm s
  | .ldaZp zp => Sys2Proof.Machine.execLdaZp zp s
  | .ldaZpX zp => Sys2Proof.Machine.execLdaZpX zp s
  | .ldaAbs abs => Sys2Proof.Machine.execLdaAbs abs s
  | .ldaAbsX abs => Sys2Proof.Machine.execLdaAbsX abs s
  | .ldaAbsY abs => Sys2Proof.Machine.execLdaAbsY abs s
  | .ldaIndX zp => Sys2Proof.Machine.execLdaIndX zp s
  | .ldaIndY zp => Sys2Proof.Machine.execLdaIndY zp s
  | .ldxImm imm => Sys2Proof.Machine.execLdxImm imm s
  | .ldxZp zp => Sys2Proof.Machine.execLdxZp zp s
  | .ldxZpY zp => Sys2Proof.Machine.execLdxZpY zp s
  | .ldxAbs abs => Sys2Proof.Machine.execLdxAbs abs s
  | .ldxAbsY abs => Sys2Proof.Machine.execLdxAbsY abs s
  | .ldyImm imm => Sys2Proof.Machine.execLdyImm imm s
  | .ldyZp zp => Sys2Proof.Machine.execLdyZp zp s
  | .ldyZpX zp => Sys2Proof.Machine.execLdyZpX zp s
  | .ldyAbs abs => Sys2Proof.Machine.execLdyAbs abs s
  | .ldyAbsX abs => Sys2Proof.Machine.execLdyAbsX abs s
  | .staZp zp => Sys2Proof.Machine.execStaZp zp s
  | .staZpX zp => Sys2Proof.Machine.execStaZpX zp s
  | .staAbs abs => Sys2Proof.Machine.execStaAbs abs s
  | .staAbsX abs => Sys2Proof.Machine.execStaAbsX abs s
  | .staAbsY abs => Sys2Proof.Machine.execStaAbsY abs s
  | .staIndX zp => Sys2Proof.Machine.execStaIndX zp s
  | .staIndY zp => Sys2Proof.Machine.execStaIndY zp s
  | .stxZp zp => Sys2Proof.Machine.execStxZp zp s
  | .stxZpY zp => Sys2Proof.Machine.execStxZpY zp s
  | .stxAbs abs => Sys2Proof.Machine.execStxAbs abs s
  | .styZp zp => Sys2Proof.Machine.execStyZp zp s
  | .styZpX zp => Sys2Proof.Machine.execStyZpX zp s
  | .styAbs abs => Sys2Proof.Machine.execStyAbs abs s
  | .tax => Sys2Proof.Machine.execTax s
  | .tay => Sys2Proof.Machine.execTay s
  | .txa => Sys2Proof.Machine.execTxa s
  | .tya => Sys2Proof.Machine.execTya s
  | .tsx => Sys2Proof.Machine.execTsx s
  | .txs => Sys2Proof.Machine.execTxs s
  | .andImm imm => Sys2Proof.Machine.execAndImm imm s
  | .andZp zp => Sys2Proof.Machine.execAndZp zp s
  | .andZpX zp => Sys2Proof.Machine.execAndZpX zp s
  | .andAbs abs => Sys2Proof.Machine.execAndAbs abs s
  | .andAbsX abs => Sys2Proof.Machine.execAndAbsX abs s
  | .andAbsY abs => Sys2Proof.Machine.execAndAbsY abs s
  | .andIndX zp => Sys2Proof.Machine.execAndIndX zp s
  | .andIndY zp => Sys2Proof.Machine.execAndIndY zp s
  | .oraImm imm => Sys2Proof.Machine.execOraImm imm s
  | .oraZp zp => Sys2Proof.Machine.execOraZp zp s
  | .oraZpX zp => Sys2Proof.Machine.execOraZpX zp s
  | .oraAbs abs => Sys2Proof.Machine.execOraAbs abs s
  | .oraAbsX abs => Sys2Proof.Machine.execOraAbsX abs s
  | .oraAbsY abs => Sys2Proof.Machine.execOraAbsY abs s
  | .oraIndX zp => Sys2Proof.Machine.execOraIndX zp s
  | .oraIndY zp => Sys2Proof.Machine.execOraIndY zp s
  | .eorImm imm => Sys2Proof.Machine.execEorImm imm s
  | .eorZp zp => Sys2Proof.Machine.execEorZp zp s
  | .eorZpX zp => Sys2Proof.Machine.execEorZpX zp s
  | .eorAbs abs => Sys2Proof.Machine.execEorAbs abs s
  | .eorAbsX abs => Sys2Proof.Machine.execEorAbsX abs s
  | .eorAbsY abs => Sys2Proof.Machine.execEorAbsY abs s
  | .eorIndX zp => Sys2Proof.Machine.execEorIndX zp s
  | .eorIndY zp => Sys2Proof.Machine.execEorIndY zp s
  | .bitZp zp => Sys2Proof.Machine.execBitZp zp s
  | .bitAbs abs => Sys2Proof.Machine.execBitAbs abs s
  | .incZp zp => Sys2Proof.Machine.execIncZp zp s
  | .incZpX zp => Sys2Proof.Machine.execIncZpX zp s
  | .incAbs abs => Sys2Proof.Machine.execIncAbs abs s
  | .incAbsX abs => Sys2Proof.Machine.execIncAbsX abs s
  | .decZp zp => Sys2Proof.Machine.execDecZp zp s
  | .decZpX zp => Sys2Proof.Machine.execDecZpX zp s
  | .decAbs abs => Sys2Proof.Machine.execDecAbs abs s
  | .decAbsX abs => Sys2Proof.Machine.execDecAbsX abs s
  | .inx => Sys2Proof.Machine.execInx s
  | .iny => Sys2Proof.Machine.execIny s
  | .dex => Sys2Proof.Machine.execDex s
  | .dey => Sys2Proof.Machine.execDey s
  | .clc => Sys2Proof.Machine.execClc s
  | .sec => Sys2Proof.Machine.execSec s
  | .cli => Sys2Proof.Machine.execCli s
  | .sei => Sys2Proof.Machine.execSei s
  | .clv => Sys2Proof.Machine.execClv s
  | .cld => Sys2Proof.Machine.execCld s
  | .sed => Sys2Proof.Machine.execSed s
  | .nop => Sys2Proof.Machine.execNop s

end Sys2Proof.Machine
end

