-- ==== Sys2Proof/Machine/Fetch.lean ====
section
/-! DEFINITION. The fetch of a step (30_encoding.md R98, 40_addressing_modes.md R120): the opcode byte at PC, then as many
operand bytes as the format has, at the following addresses modulo 65536 (20_memory.md R56). -/

namespace Sys2Proof.Machine

/-- The `n`-th byte after the opcode, fetched only where the format has it (R120: "For a 1-byte format nothing is fetched"). -/
def operandByte (s : State) (r : TableRow) (n : Nat) : Byte :=
  if n < r.bytes then s.read (s.pc + BitVec.ofNat 16 n) else 0

/-- The first operand address above `$FFFF`, un-reduced, in fetch order (R56, R71). -/
def fetchOverflow (s : State) (r : TableRow) : Option Nat :=
  if 1 < r.bytes ∧ 0xFFFF < s.pc.toNat + 1 then some (s.pc.toNat + 1)
  else if 2 < r.bytes ∧ 0xFFFF < s.pc.toNat + 2 then some (s.pc.toNat + 2)
  else none

/-- The instruction at PC. An illegal opcode is reported before any operand byte is fetched (R311); with
`ADDR_OVERFLOW = fault` an operand address above `$FFFF` is reported next (R316). -/
def fetch (s : State) : Except Fault Instr :=
  let op := s.read s.pc
  match describe s.cfg.table op with
  | none => .error (.unsupportedOpcode op)
  | some r =>
    match s.cfg.addrOverflow, fetchOverflow s r with
    | .fault, some sum => .error (.unmappedAddress sum)
    | _, _ =>
      match r.instr (operandByte s r 1) (operandByte s r 2) with
      | none => .error (.unsupportedOpcode op)
      | some i => .ok i

end Sys2Proof.Machine
end

