-- ==== Sys2Proof/Machine/Step.lean ====
section
/-! DEFINITION. `Step`, the one transition of the core (30_encoding.md R98): fetch, decode, execute, retire as one. -/

namespace Sys2Proof.Machine

/-- One step (R98). PC and CYC are advanced inside the instruction's meaning. -/
def step (s : State) : Host.Outcome State Fault Refusal :=
  match fetch s with
  | .error f => .fault f
  | .ok i => exec i s

/-- The state with the instruction whose table bits are `w` stored at PC by the host's raw access (R70), so that the next
step fetches and runs it; nothing else changes (log 20). -/
def State.withFetchWord (s : State) (nbits w : Nat) : State := s.pokeAll s.pc (tableBytes nbits w)

end Sys2Proof.Machine
end

