-- ==== Sys2Proof/Safety.lean ====
section
/-! DEFINITION. The terms claims are stated in: the invariant (10_state.md R29, R36; 20_memory.md R72), when no address sum
passes the top of memory (R56), which registers, flags and addresses an instruction writes (R24 to R31, R35), safe runs. -/

namespace Sys2Proof.Machine

/-- The state a result goes on in, if it goes on. -/
def nextState? (r : Result) : Option State :=
  match r with
  | .next t => some t
  | .fault _ => none
  | .refused _ => none

/-- The invariant of the reachable state: `P[5] = 1` (R29, R36) and memory in its canonical form. -/
abbrev State.Inv (s : State) : Prop := getFlag .u s.p = true ∧ s.mem.wf s.cfg.memoryMap = true

/-- The next step ends in no error outcome. -/
def StepSafe (s : State) : Prop := ∃ t, step s = .next t

/-- `n` steps end in no error outcome (70_reset_and_hazards.md R353: the end of a run is a step count). -/
def SafeFor (n : Nat) (s : State) : Prop :=
  match n with
  | 0 => True
  | k + 1 => ∃ t, step s = .next t ∧ SafeFor k t

/-- An un-reduced address sum raises no `UnmappedAddress`: always so with `ADDR_OVERFLOW = wrap` (R56). -/
abbrev fits (s : State) (sum : Nat) : Prop := s.cfg.addrOverflow = .fault → sum ≤ 0xFFFF

/-- The sum that gives an operand's effective address fits. -/
def operandFits (o : Operand) (s : State) : Prop :=
  match o with
  | .mem m => fits s (addrSum m s)
  | .implied => True
  | .accumulator => True
  | .imm _ => True
  | .ind _ => True
  | .rel _ => True

/-- No sum of an instruction that falls through to the next one passes the top of memory: neither its operand's nor
`PC + bytes` (R56). -/
def runsClear (i : Instr) (s : State) : Prop :=
  operandFits i.desc.operand s ∧ fits s (s.pc.toNat + i.desc.bytes)

/-- `(PC + bytes) mod 65536` (R98). -/
def nextPc (i : Instr) (s : State) : Addr := s.pc + BitVec.ofNat 16 i.desc.bytes

/-- The operand value of the read path: the immediate, or the byte at the effective address (R134). -/
def operandValue (o : Operand) (s : State) : Option Byte :=
  match o with
  | .imm v => some v
  | .mem m => some (s.read (effAddr m s))
  | .implied => none
  | .accumulator => none
  | .ind _ => none
  | .rel _ => none

/-- The penalty cycle of the read path (R134, R137). -/
def operandPenalty (d : Descriptor) (s : State) : Nat :=
  match d.operand with
  | .mem m => readPenalty d m s
  | .implied => 0
  | .accumulator => 0
  | .imm _ => 0
  | .ind _ => 0
  | .rel _ => 0

/-- Every flag outside the list has the same value in both status bytes. -/
def FlagsKept (fs : List Flag) (p q : Byte) : Prop := ∀ f, f ∉ fs → getFlag f q = getFlag f p

/-- R35: the instruction writes A. -/
def writesA (d : Descriptor) : Bool :=
  match d.mnemonic with
  | .lda | .adc | .sbc | .and | .ora | .eor | .pla | .txa | .tya => true
  | .asl | .lsr | .rol | .ror => d.operand == .accumulator
  | _ => false

/-- R35: the instruction writes X. -/
def writesX (d : Descriptor) : Bool := [Mnemonic.ldx, .tax, .tsx, .inx, .dex].contains d.mnemonic

/-- R35: the instruction writes Y. -/
def writesY (d : Descriptor) : Bool := [Mnemonic.ldy, .tay, .iny, .dey].contains d.mnemonic

/-- R35: the instruction writes SP (BRK when taken). -/
def writesSp (d : Descriptor) (s : State) : Bool :=
  [Mnemonic.pha, .php, .pla, .plp, .jsr, .rts, .rti, .txs].contains d.mnemonic ||
    (d.mnemonic == .brk && !getFlag .i s.p)

/-- R24 to R31: the flags an instruction writes (BRK's I when taken; RTI and PLP all eight). -/
def flagsWritten (d : Descriptor) : List Flag :=
  match d.mnemonic with
  | .adc | .sbc => [.c, .z, .v, .n]
  | .cmp | .cpx | .cpy | .asl | .lsr | .rol | .ror => [.c, .z, .n]
  | .lda | .ldx | .ldy | .tax | .tay | .txa | .tya | .tsx | .pla | .and | .ora | .eor
  | .inc | .dec | .inx | .iny | .dex | .dey => [.z, .n]
  | .bit => [.z, .v, .n]
  | .clc | .sec => [.c]
  | .cli | .sei | .brk => [.i]
  | .clv => [.v]
  | .cld | .sed => [.d]
  | .plp | .rti => [.c, .z, .i, .d, .b, .u, .v, .n]
  | .sta | .stx | .sty | .txs | .jmp | .jsr | .rts | .bcc | .bcs | .beq | .bne | .bmi | .bpl | .bvc | .bvs
  | .pha | .php | .nop => []

/-- The flag each branch tests and the value it branches on (R195 to R202). -/
def branchTest (mn : Mnemonic) : Option (Flag × Bool) :=
  match mn with
  | .bcc => some (.c, false)
  | .bcs => some (.c, true)
  | .beq => some (.z, true)
  | .bne => some (.z, false)
  | .bmi => some (.n, true)
  | .bpl => some (.n, false)
  | .bvc => some (.v, false)
  | .bvs => some (.v, true)
  | _ => none

/-- R170 as arithmetic: the byte a shift by one makes of `v` with the prior carry `c` (0 or 1). -/
def shiftedByte (mn : Mnemonic) (v c : Nat) : Nat :=
  match mn with
  | .asl => 2 * v % 256
  | .lsr => v / 2
  | .rol => 2 * v % 256 + c
  | .ror => v / 2 + 128 * c
  | _ => v

/-- R170 as arithmetic: the bit a shift by one moves into the carry. -/
def shiftedOut (mn : Mnemonic) (v : Nat) : Bool :=
  match mn with
  | .asl | .rol => decide (128 ≤ v)
  | .lsr | .ror => decide (v % 2 = 1)
  | _ => false

/-- The flag a flag instruction writes, and the value (R280 to R286). -/
def flagSetting (mn : Mnemonic) : Option (Flag × Bool) :=
  match mn with
  | .clc => some (.c, false)
  | .sec => some (.c, true)
  | .cli => some (.i, false)
  | .sei => some (.i, true)
  | .clv => some (.v, false)
  | .cld => some (.d, false)
  | .sed => some (.d, true)
  | _ => none

/-- The 105 illegal opcodes, as R97 lists them. -/
def illegalOpcodes : List Byte :=
  [0x02, 0x03, 0x04, 0x07, 0x0B, 0x0C, 0x0F, 0x12, 0x13, 0x14, 0x17, 0x1A, 0x1B, 0x1C, 0x1F, 0x22, 0x23, 0x27, 0x2B, 0x2F,
   0x32, 0x33, 0x34, 0x37, 0x3A, 0x3B, 0x3C, 0x3F, 0x42, 0x43, 0x44, 0x47, 0x4B, 0x4F] ++
  [0x52, 0x53, 0x54, 0x57, 0x5A, 0x5B, 0x5C, 0x5F, 0x62, 0x63, 0x64, 0x67, 0x6B, 0x6F, 0x72, 0x73, 0x74, 0x77, 0x7A, 0x7B,
   0x7C, 0x7F, 0x80, 0x82, 0x83, 0x87, 0x89, 0x8B, 0x8F, 0x92, 0x93, 0x97, 0x9B, 0x9C, 0x9E, 0x9F] ++
  [0xA3, 0xA7, 0xAB, 0xAF, 0xB2, 0xB3, 0xB7, 0xBB, 0xBF, 0xC2, 0xC3, 0xC7, 0xCB, 0xCF, 0xD2, 0xD3, 0xD4, 0xD7, 0xDA, 0xDB,
   0xDC, 0xDF, 0xE2, 0xE3, 0xE7, 0xEB, 0xEF, 0xF2, 0xF3, 0xF4, 0xF7, 0xFA, 0xFB, 0xFC, 0xFF]

/-- The addresses an instruction issues a `MemWrite` to, in order: the effective address of the write and
read-modify-write paths (R135, R136), the stack cells of the pushes (R64). -/
def storedAddrs (i : Instr) (s : State) : List Addr :=
  match i.desc.mnemonic with
  | .sta | .stx | .sty | .inc | .dec | .asl | .lsr | .rol | .ror =>
    match i.desc.operand with
    | .mem m => [effAddr m s]
    | _ => []
  | .pha | .php => [stackAddr s.sp]
  | .jsr => [stackAddr s.sp, stackAddr (s.sp - 1)]
  | .brk => if getFlag .i s.p then [] else [stackAddr s.sp, stackAddr (s.sp - 1), stackAddr (s.sp - 2)]
  | _ => []

end Sys2Proof.Machine
end

