-- ==== Sys2Proof/Certificates/Slice0/Obligations.lean ====
section
/-! DEFINITION. The statements for the provers. They come from the numbered rules of spec/. They hold for every InstructionTable
(R6, R94) and every memory behind the bus (R4, R6) unless they name one; `baseCycles` are those of the row the step looked up
(R98, `StepTakesItsRowFromTheTable`). -/

open Sys2Proof Sys2Proof.Machine

/-! ### Reset -/

/-- R350 (D13): `Reset(init)` loads the seven registers, forces Unused on, and touches neither memory nor the parameters. -/
def Obligations.ResetLoadsSevenRegisters : Prop :=
  ∀ (s : State) (init : ResetInit),
    (s.resetTo init).outputs = { init with p := init.p ||| 0x20 } ∧
    (s.resetTo init).mem = s.mem ∧ (s.resetTo init).cfg = s.cfg

/-- R23, R34: the status register starts as 0b00100000 (the other registers' reset values are the model's choice, log 2). -/
def Obligations.ResetStatusIsUnusedOnly : Prop := State.reset.p = 0b00100000#8

/-- The reset state meets the invariant that every step keeps (R29; memory's canonical form is the model's own, log 4). -/
def Obligations.ResetMeetsInvariant : Prop := State.reset.Inv

/-! ### Encoding, decoding and the step -/

/-- R95, R96, R100 (D2): words written out from the spec, one or two of each instruction file, decode to what they stand for. -/
def Obligations.SpecWordsDecode : Prop :=
  decode [0x69, 0x03] = .ok (.adcImm 0x03, []) ∧
  decode [0xD9, 0xFE, 0x02] = .ok (.cmpAbsY 0x02FE, []) ∧
  decode [0x0A] = .ok (.aslAcc, []) ∧
  decode [0x7E, 0xFF, 0x06] = .ok (.rorAbsX 0x06FF, []) ∧
  decode [0x4C, 0x00, 0x80] = .ok (.jmpAbs 0x8000, []) ∧
  decode [0x6C, 0xFF, 0x30] = .ok (.jmpInd 0x30FF, []) ∧
  decode [0xD0, 0xFB] = .ok (.bne 0xFB, []) ∧
  decode [0x00] = .ok (.brk, []) ∧
  decode [0x40, 0xEA] = .ok (.rti, [0xEA]) ∧
  decode [0xB1, 0x20] = .ok (.ldaIndY 0x20, []) ∧
  decode [0x96, 0x10] = .ok (.stxZpY 0x10, []) ∧
  decode [0x99, 0x00, 0x02] = .ok (.staAbsY 0x0200, []) ∧
  decode [0x24, 0x10] = .ok (.bitZp 0x10, []) ∧
  decode [0xFE, 0x34, 0x12] = .ok (.incAbsX 0x1234, []) ∧
  decode [0xEA] = .ok (.nop, [])

/-- R90 to R94: decoding the bytes of an instruction gives it back, with every operand value, and leaves the bytes after it; under
every table that has an opcode for it, as under the default one. -/
def Obligations.DecodeOfEncode : Prop :=
  ∀ (i : Instr) (rest : List Byte), i.wellFormed = true →
    decode (encode i ++ rest) = .ok (i, rest) ∧
    ∀ (t : InstructionTable) (bytes : List Byte), encodeWith t i = some bytes →
      decodeWith t (bytes ++ rest) = .ok (i, rest)

/-- R90 to R97: bytes that decode are the encoding of the instruction they decode to, which is well formed: no two byte
strings share a meaning and no byte of an instruction is ignored. Under any table they are an opcode of the instruction's mnemonic
and mode, and its operand bytes. -/
def Obligations.EncodeOfDecode : Prop :=
  (∀ (bytes rest : List Byte) (i : Instr), decode bytes = .ok (i, rest) →
    bytes = encode i ++ rest ∧ i.wellFormed = true) ∧
  ∀ (t : InstructionTable) (bytes rest : List Byte) (i : Instr), decodeWith t bytes = .ok (i, rest) →
    ∃ r, describe t r.opcode = some r ∧ r.mnemonic = i.desc.mnemonic ∧ r.mode = i.desc.operand.mode ∧
      bytes = r.opcode :: i.desc.operand.bytes ++ rest

/-- R97: the bytes that are no opcode of the default table are exactly the 105 listed. -/
def Obligations.IllegalOpcodesAreThe105 : Prop :=
  illegalOpcodes.length = 105 ∧ ∀ op : Byte, describe standardTable op = none ↔ op ∈ illegalOpcodes

/-- R94, R97, R311: a step ends with `UnsupportedOpcode(op)` exactly when `op` is the byte at PC and the lookup finds no row for it,
that is, under the default table, when it is one of the 105; with the fault there is no next state, so nothing is written. -/
def Obligations.IllegalOpcodeStopsStep : Prop :=
  ∀ (s : State) (op : Byte),
    (step s = .fault (.unsupportedOpcode op) ↔ s.read s.pc = op ∧ describe s.cfg.table op = none) ∧
    (s.cfg.table = standardTable →
      (step s = .fault (.unsupportedOpcode op) ↔ s.read s.pc = op ∧ op ∈ illegalOpcodes))

/-- R98: when the bytes at PC decode to an instruction, the step is the instruction's execution at that state. Its last byte
lies at or below `$FFFF`, or addresses wrap (R56). -/
def Obligations.StepRunsDecodedInstruction : Prop :=
  ∀ (s : State) (i : Instr) (rest : List Byte),
    decodeWith s.cfg.table [s.read s.pc, s.read (s.pc + 1), s.read (s.pc + 2)] = .ok (i, rest) →
    fits s (s.pc.toNat + (i.desc.bytes - 1)) →
    step s = exec i s

/-- R94, R98, R137: what the lookup gives is a row of the table for that opcode, of its format's length; the step at that opcode
executes an instruction of the row's mnemonic, mode, length and page-cross column, at the row's base cycles. -/
def Obligations.StepTakesItsRowFromTheTable : Prop :=
  ∀ (s : State) (r : TableRow), describe s.cfg.table (s.read s.pc) = some r →
    r ∈ s.cfg.table ∧ r.opcode = s.read s.pc ∧ r.bytes = r.mode.length ∧
    (fits s (s.pc.toNat + (r.bytes - 1)) → ∃ i : Instr,
      step s = exec i s ∧ i.desc.mnemonic = r.mnemonic ∧ i.desc.operand.mode = r.mode ∧ i.desc.bytes = r.bytes ∧
      i.desc.pageCross = r.pageCross ∧ baseCycles i.desc s = r.base)

/-- R56, R312, R316 (D7): with `ADDR_OVERFLOW = fault`, an instruction whose operand bytes pass `$FFFF` ends the step with
`UnmappedAddress($10000)`, the first overflowing operand address. -/
def Obligations.FetchPastTopOfMemoryFaults : Prop :=
  ∀ (s : State) (r : TableRow),
    s.cfg.addrOverflow = .fault → describe s.cfg.table (s.read s.pc) = some r → 0xFFFF < s.pc.toNat + (r.bytes - 1) →
    step s = .fault (.unmappedAddress 0x10000)

/-! ### Memory and the stack -/

/-- R51, R58 (D12): a write anywhere in `$0000`-`$1FFF` is read back at its four images and nowhere else. -/
def Obligations.RamIsMirroredFourTimes : Prop :=
  ∀ (s : State) (e a : Addr) (v : Byte),
    s.cfg.memoryMap = .reference → s.mem.wf .reference = true → e.toNat < 0x2000 →
    (s.write e v).read a = if a.toNat < 0x2000 ∧ a.toNat % 0x800 = e.toNat % 0x800 then v else s.read a

/-- R51, R59 (D12): a write anywhere in `$2000`-`$3FFF` is read back every eight bytes of the window and nowhere else. -/
def Obligations.PpuWindowIsEightCells : Prop :=
  ∀ (s : State) (e a : Addr) (v : Byte),
    s.cfg.memoryMap = .reference → s.mem.wf .reference = true → 0x2000 ≤ e.toNat → e.toNat < 0x4000 →
    (s.write e v).read a =
      if 0x2000 ≤ a.toNat ∧ a.toNat < 0x4000 ∧ a.toNat % 8 = e.toNat % 8 then v else s.read a

/-- R60: `$4000`-`$7FFF` is plain storage: reads direct, writes direct. -/
def Obligations.IoExpansionAndSaveRamAreDirect : Prop :=
  ∀ (s : State) (e a : Addr) (v : Byte),
    s.cfg.memoryMap = .reference → s.mem.wf .reference = true → 0x4000 ≤ e.toNat → e.toNat < 0x8000 →
    (s.write e v).read a = if a = e then v else s.read a

/-- R61: a `MemWrite` to Program ROM changes nothing at all, while the host's raw access (R70) fills it. -/
def Obligations.RomWriteIsDiscarded : Prop :=
  ∀ (s : State) (e a : Addr) (v : Byte),
    s.cfg.memoryMap = .reference → s.mem.wf .reference = true → 0x8000 ≤ e.toNat →
    s.write e v = s ∧ (s.poke e v).read a = if a = e then v else s.read a

/-- R61, R68: no instruction changes any byte of Program ROM, wherever its stores and pushes go. -/
def Obligations.NoInstructionChangesRom : Prop :=
  ∀ (i : Instr) (s t : State) (a : Addr),
    s.cfg.memoryMap = .reference → exec i s = .next t → 0x8000 ≤ a.toNat → t.read a = s.read a

/-- R64 (D9), R21: a push writes `$0100 + SP` and then decrements SP modulo 256; a pull increments SP and then reads, and erases
nothing. In a memory of cells, a pull after a push gives the byte back and every other cell reads as before. -/
def Obligations.PushThenPull : Prop :=
  ∀ (s : State) (v : Byte) (a : Addr),
    s.push v = { s.write (BitVec.ofNat 16 (0x100 + s.sp.toNat)) v with sp := BitVec.ofNat 8 (s.sp.toNat + 255) } ∧
    s.pullByte = s.read (BitVec.ofNat 16 (0x100 + (s.sp.toNat + 1) % 256)) ∧
    s.pulled = { s with sp := BitVec.ofNat 8 (s.sp.toNat + 1) } ∧
    (s.push v).pulled.sp = s.sp ∧ (s.push v).pulled.mem = (s.push v).mem ∧
    (hasCells s.cfg.memoryMap = true → s.mem.wf s.cfg.memoryMap = true →
      (s.push v).pullByte = v ∧
      (cellOf s.cfg.memoryMap a ≠ 0x100 + s.sp.toNat → (s.push v).read a = s.read a))

/-! ### Addressing -/

/-- R124, R125, R126: the zero-page modes give an address in page zero, the indexed ones with an 8-bit wrap, and never a page
crossing nor a penalty; ZeroPageY is used by LDX and STX only. -/
def Obligations.ZeroPageModesWrapInPageZero : Prop :=
  ∀ (s : State) (b : Byte),
    (effAddr (.zp b) s).toNat = b.toNat ∧ crossed (.zp b) s = false ∧
    (effAddr (.zpX b) s).toNat = (b.toNat + s.x.toNat) % 256 ∧ crossed (.zpX b) s = false ∧
    (effAddr (.zpY b) s).toNat = (b.toNat + s.y.toNat) % 256 ∧ crossed (.zpY b) s = false ∧
    (∀ d, readPenalty d (.zp b) s = 0 ∧ readPenalty d (.zpX b) s = 0 ∧ readPenalty d (.zpY b) s = 0) ∧
    (∀ i : Instr, i.desc.operand = .mem (.zpY b) → i.desc.mnemonic = .ldx ∨ i.desc.mnemonic = .stx)

/-- R127 to R129, R56 (D7): the absolute modes add the index modulo 65536, and the page is crossed exactly when the low byte
of the base plus the index passes 255. -/
def Obligations.AbsoluteModesCarryIntoThePage : Prop :=
  ∀ (s : State) (a : Addr),
    effAddr (.abs a) s = a ∧ crossed (.abs a) s = false ∧
    (effAddr (.absX a) s).toNat = (a.toNat + s.x.toNat) % 65536 ∧
    (effAddr (.absY a) s).toNat = (a.toNat + s.y.toNat) % 65536 ∧
    (crossed (.absX a) s = true ↔ 255 < a.toNat % 256 + s.x.toNat) ∧
    (crossed (.absY a) s = true ↔ 255 < a.toNat % 256 + s.y.toNat)

/-- R130, R131, R53 (D7, D8): the two indirect modes read their pointer low byte first from page zero, its second byte
wrapping to `$0000` with `ZP_POINTER_WRAP` and lying at the next address without; only IndirectY adds an index after that. -/
def Obligations.IndirectModesReadZeroPagePointers : Prop :=
  ∀ (s : State) (b : Byte),
    let second : Nat → Addr := fun zp => BitVec.ofNat 16 (if s.cfg.zpPointerWrap then (zp + 1) % 256 else zp + 1)
    let pointer : Nat → Nat := fun zp => (s.read (BitVec.ofNat 16 zp)).toNat + 256 * (s.read (second zp)).toNat
    (effAddr (.indX b) s).toNat = pointer ((b.toNat + s.x.toNat) % 256) ∧ crossed (.indX b) s = false ∧
    (effAddr (.indY b) s).toNat = (pointer b.toNat + s.y.toNat) % 65536 ∧
    (crossed (.indY b) s = true ↔ 255 < pointer b.toNat % 256 + s.y.toNat)

/-- R98, R99, R134 to R137 (D19): what an instruction adds to CYC beyond its base cycles, control transfer and BRK apart: one cycle
on the read path in AbsoluteX, AbsoluteY or IndirectY where the page is crossed; nothing on the write path; on the
read-modify-write path one cycle in AbsoluteX where the page is crossed and RMW_PAGE_PENALTY is set (D10, the model's choice of
log 9), else nothing; nothing for every other form. `operandPenalty` and `modifyPenalty` are that cycle. -/
def Obligations.PageCrossCyclesByPath : Prop :=
  ∀ (i : Instr) (s t : State), i.desc.mnemonic.path ≠ .control → i.desc.mnemonic ≠ .brk →
    let extra : Nat :=
      match i.desc.operand with
      | .mem m =>
        if crossed m s = true ∧
            (i.desc.mnemonic.path = .read ∧ (m.mode = .absx ∨ m.mode = .absy ∨ m.mode = .indy) ∨
              i.desc.mnemonic.path = .modify ∧ m.mode = .absx ∧ s.cfg.rmwPagePenalty = true)
        then 1 else 0
      | _ => 0
    (exec i s = .next t → t.cyc = s.cyc + baseCycles i.desc s + extra) ∧
    (i.desc.mnemonic.path = .read → operandPenalty i.desc s = extra) ∧
    (∀ m, i.desc.operand = .mem m → i.desc.mnemonic.path = .modify → modifyPenalty m s = extra)

/-! ### Arithmetic and compare -/

/-- R150, R154: ADC in every mode: A, C, V, Z, N from the un-reduced sum; nothing else changes but PC and CYC. -/
def Obligations.AdcResult : Prop :=
  ∀ (i : Instr) (s : State) (v : Byte),
    i.desc.mnemonic = .adc → operandValue i.desc.operand s = some v → runsClear i s →
    ∃ r q : Byte,
      exec i s = .next { s with a := r, p := q, pc := nextPc i s, cyc := s.cyc + baseCycles i.desc s + operandPenalty i.desc s } ∧
      r.toNat = (s.a.toNat + v.toNat + carryBit s.p) % 256 ∧
      getFlag .c q = decide (s.a.toNat + v.toNat + carryBit s.p > 255) ∧
      getFlag .v q = (s.a.msb == v.msb && r.msb != s.a.msb) ∧
      (getFlag .v q = true ↔ s.a.toInt + v.toInt + carryBit s.p < -128 ∨ 127 < s.a.toInt + v.toInt + carryBit s.p) ∧
      getFlag .z q = decide (r = 0) ∧ getFlag .n q = decide (128 ≤ r.toNat) ∧
      FlagsKept [.c, .v, .z, .n] s.p q

/-- R151, R155 (SBC as the instruction of `subtractWithBorrow`: D17): SBC in every mode. -/
def Obligations.SbcResult : Prop :=
  ∀ (i : Instr) (s : State) (v : Byte),
    i.desc.mnemonic = .sbc → operandValue i.desc.operand s = some v → runsClear i s →
    ∃ r q : Byte,
      exec i s = .next { s with a := r, p := q, pc := nextPc i s, cyc := s.cyc + baseCycles i.desc s + operandPenalty i.desc s } ∧
      (r.toNat : Int) = ((s.a.toNat : Int) - v.toNat - (1 - carryBit s.p)) % 256 ∧
      getFlag .c q = decide (0 ≤ (s.a.toNat : Int) - v.toNat - (1 - carryBit s.p)) ∧
      getFlag .v q = (s.a.msb != v.msb && r.msb != s.a.msb) ∧
      getFlag .z q = decide (r = 0) ∧ getFlag .n q = decide (128 ≤ r.toNat) ∧
      FlagsKept [.c, .v, .z, .n] s.p q

/-- R151: SBC of a value leaves the machine as ADC of its complement does (the spec's derived law), at SBC's own base cycles. -/
def Obligations.SbcIsAdcOfComplement : Prop :=
  ∀ (v : Byte) (s : State),
    exec (.sbcImm v) s =
      match exec (.adcImm (v ^^^ 0xFF)) s with
      | .next t => .next { t with cyc := s.cyc + baseCycles (Instr.sbcImm v).desc s }
      | .fault f => .fault f
      | .refused r => .refused r

/-- R152, R156 to R158: only C, Z and N change; the register does not. That CMP, CPX and CPY are the instructions of `compare` is
D17, PRESUMED (log 22). -/
def Obligations.CompareResult : Prop :=
  ∀ (i : Instr) (s : State) (v reg : Byte),
    (i.desc.mnemonic = .cmp ∧ reg = s.a ∨ i.desc.mnemonic = .cpx ∧ reg = s.x ∨ i.desc.mnemonic = .cpy ∧ reg = s.y) →
    operandValue i.desc.operand s = some v → runsClear i s →
    ∃ q : Byte,
      exec i s = .next { s with p := q, pc := nextPc i s, cyc := s.cyc + baseCycles i.desc s + operandPenalty i.desc s } ∧
      getFlag .c q = decide (v.toNat ≤ reg.toNat) ∧ getFlag .z q = decide (reg = v) ∧
      getFlag .n q = decide (128 ≤ (reg.toNat + 256 - v.toNat) % 256) ∧ FlagsKept [.c, .z, .n] s.p q

/-- R27, R153: the Decimal flag is inert. Setting or clearing it before an instruction other than the six that copy or write
P.D changes nothing of the outcome but P.D itself. -/
def Obligations.DecimalFlagIsInert : Prop :=
  ∀ (i : Instr) (s : State) (b : Bool),
    i.desc.mnemonic ∉ [Mnemonic.php, .brk, .plp, .rti, .cld, .sed] →
    exec i (s.setP (setFlag .d b s.p)) =
      match exec i s with
      | .next t => .next (t.setP (setFlag .d b t.p))
      | .fault f => .fault f
      | .refused r => .refused r

/-! ### Shift and rotate -/

/-- R170, R175 (directions: D17): ASL, LSR, ROL, ROR of the accumulator. -/
def Obligations.ShiftAccumulatorResult : Prop :=
  ∀ (i : Instr) (s : State),
    i.desc.mnemonic ∈ [Mnemonic.asl, .lsr, .rol, .ror] → i.desc.operand = .accumulator → runsClear i s →
    ∃ r q : Byte,
      exec i s = .next { s with a := r, p := q, pc := nextPc i s, cyc := s.cyc + baseCycles i.desc s } ∧
      r.toNat = shiftedByte i.desc.mnemonic s.a.toNat (carryBit s.p) ∧
      getFlag .c q = shiftedOut i.desc.mnemonic s.a.toNat ∧
      getFlag .z q = decide (r = 0) ∧ getFlag .n q = decide (128 ≤ r.toNat) ∧ FlagsKept [.c, .z, .n] s.p q

/-- R136, R170, R175 (D10, D17): ASL, LSR, ROL, ROR of a memory byte: one write of the new byte to the address read; the flags
are those of the new byte even where Program ROM discards it. `modifyPenalty`: `PageCrossCyclesByPath`. -/
def Obligations.ShiftMemoryResult : Prop :=
  ∀ (i : Instr) (m : MemOperand) (s : State),
    i.desc.mnemonic ∈ [Mnemonic.asl, .lsr, .rol, .ror] → i.desc.operand = .mem m → runsClear i s →
    ∃ r q : Byte,
      exec i s = .next { s.write (effAddr m s) r with
        p := q, pc := nextPc i s, cyc := s.cyc + baseCycles i.desc s + modifyPenalty m s } ∧
      r.toNat = shiftedByte i.desc.mnemonic (s.read (effAddr m s)).toNat (carryBit s.p) ∧
      getFlag .c q = shiftedOut i.desc.mnemonic (s.read (effAddr m s)).toNat ∧
      getFlag .z q = decide (r = 0) ∧ getFlag .n q = decide (128 ≤ r.toNat) ∧ FlagsKept [.c, .z, .n] s.p q

/-! ### Control transfer -/

/-- R190, R191, R133: both forms of JMP write PC and nothing else; the indirect form takes the high byte from the pointer's own
page, `(ptr[7:0] + 1) mod 256` within it. -/
def Obligations.JmpResult : Prop :=
  ∀ (a : Addr) (s : State),
    exec (.jmpAbs a) s = .next { s with pc := a, cyc := s.cyc + baseCycles (Instr.jmpAbs a).desc s } ∧
    exec (.jmpInd a) s = .next { s with
      pc := BitVec.ofNat 16 ((s.read a).toNat +
        256 * (s.read (BitVec.ofNat 16 (a.toNat / 256 * 256 + (a.toNat % 256 + 1) % 256))).toNat),
      cyc := s.cyc + baseCycles (Instr.jmpInd a).desc s }

/-- R133: an Indirect operand is JMP's alone; the low byte of its target is read at the pointer, the high byte in the pointer's own
page, at `(ptr[7:0] + 1) mod 256` within it; no penalty is added to the base cycles. -/
def Obligations.IndirectTargetStaysInThePointersPage : Prop :=
  ∀ (ptr : Addr) (s : State),
    (∀ i : Instr, i.desc.operand = .ind ptr → i = .jmpInd ptr) ∧
    ∃ t, exec (.jmpInd ptr) s = .next t ∧ t.cyc = s.cyc + baseCycles (Instr.jmpInd ptr).desc s ∧
      t.pc.toNat = (s.read ptr).toNat +
        256 * (s.read (hiLo (page ptr) (BitVec.ofNat 8 ((ptr.toNat % 256 + 1) % 256)))).toNat

/-- R192: JSR pushes the address of its own last byte, high byte first, and jumps; no flag changes. In a memory of cells the high
byte then stands at the higher stack cell. -/
def Obligations.JsrResult : Prop :=
  ∀ (a : Addr) (s : State), fits s (s.pc.toNat + 2) →
    let hi : Byte := BitVec.ofNat 8 ((s.pc.toNat + 2) % 65536 / 256)
    let lo : Byte := BitVec.ofNat 8 ((s.pc.toNat + 2) % 256)
    let m : State := (s.push hi).push lo
    exec (.jsr a) s = .next { s with
      mem := m.mem, sp := s.sp - 2, pc := a, cyc := s.cyc + baseCycles (Instr.jsr a).desc s } ∧
    (hasCells s.cfg.memoryMap = true → s.mem.wf s.cfg.memoryMap = true →
      m.read (stackAddr s.sp) = hi ∧ m.read (stackAddr (s.sp - 1)) = lo)

/-- R193: RTS pulls the low then the high byte and continues at that address plus 1; no flag and no memory cell changes. -/
def Obligations.RtsResult : Prop :=
  ∀ s : State,
    let lo := s.read (stackAddr (s.sp + 1))
    let hi := s.read (stackAddr (s.sp + 2))
    fits s (lo.toNat + 256 * hi.toNat + 1) →
    exec .rts s = .next { s with
      pc := BitVec.ofNat 16 (lo.toNat + 256 * hi.toNat + 1), sp := s.sp + 2, cyc := s.cyc + baseCycles Instr.rts.desc s }

/-- R192, R193, R203: after a JSR, an RTS in any state that has JSR's SP and in which the two stack cells read as JSR left them
continues right after the 3-byte JSR, with SP as before the JSR and nothing else of that state changed: whatever the subroutine
did to A, X, Y, P and the rest of memory. Memory is one of cells. -/
def Obligations.RtsReturnsAfterJsr : Prop :=
  ∀ (a : Addr) (s t w : State),
    hasCells s.cfg.memoryMap = true → s.mem.wf s.cfg.memoryMap = true → exec (.jsr a) s = .next t →
    w.cfg = t.cfg → w.sp = t.sp →
    w.read (stackAddr s.sp) = t.read (stackAddr s.sp) →
    w.read (stackAddr (s.sp - 1)) = t.read (stackAddr (s.sp - 1)) →
    fits s (s.pc.toNat + 3) →
    exec .rts w = .next { w with pc := s.pc + 3, sp := s.sp, cyc := w.cyc + baseCycles Instr.rts.desc w }

/-- R194 to R202 (which flag each tests: D17), R132: a branch not taken only falls through; a taken one goes to
`next + disp` for the signed displacement and costs one cycle more, two when the target is on another page than `next`. With
`ADDR_OVERFLOW = fault` (D7) a taken target below 0 wraps and the branch completes: R56 is silent, the model's choice (DEDUCED,
log 7). -/
def Obligations.BranchResult : Prop :=
  ∀ (i : Instr) (s : State) (f : Flag) (want : Bool) (disp : Byte),
    branchTest i.desc.mnemonic = some (f, want) → i.desc.operand = .rel disp → fits s (s.pc.toNat + 2) →
    (getFlag f s.p ≠ want → exec i s = .next { s with pc := s.pc + 2, cyc := s.cyc + baseCycles i.desc s }) ∧
    (getFlag f s.p = want → fits s ((s.pc.toNat : Int) + 2 + disp.toInt).toNat → ∃ target : Addr,
      (target.toNat : Int) = ((s.pc.toNat : Int) + 2 + disp.toInt) % 65536 ∧
      exec i s = .next { s with
        pc := target,
        cyc := s.cyc + baseCycles i.desc s + if target.toNat / 256 = (s.pc.toNat + 2) % 65536 / 256 then 1 else 2 })

/-! ### Software interrupt, return, stack -/

/-- R220, R317 (D4, D5): BRK with I clear pushes `PC + 1`, high byte first, and the status with Break forced on, sets I, and
continues at the vector `$FFFE/$FFFF` as it reads after the pushes (R71), which in a memory of cells is as it read before. That
`PC + 1` is what it pushes is D5, DESIGN CHOICE (log 12). Nothing is said of the live Break bit (U9). -/
def Obligations.BrkTakenEntersTheTrap : Prop :=
  ∀ s : State, getFlag .i s.p = false → fits s (s.pc.toNat + 1) →
    let hi : Byte := BitVec.ofNat 8 ((s.pc.toNat + 1) % 65536 / 256)
    let lo : Byte := BitVec.ofNat 8 ((s.pc.toNat + 1) % 256)
    let m : State := ((s.push hi).push lo).push (s.p ||| 0x10)
    ∃ q : Byte,
      exec .brk s = .next { s with
        mem := m.mem, sp := s.sp - 3, p := q, pc := hiLo (m.read 0xFFFF) (m.read 0xFFFE),
        cyc := s.cyc + baseCycles Instr.brk.desc s } ∧
      getFlag .i q = true ∧ FlagsKept [.i, .b] s.p q ∧
      (hasCells s.cfg.memoryMap = true → s.mem.wf s.cfg.memoryMap = true →
        m.read (stackAddr s.sp) = hi ∧ m.read (stackAddr (s.sp - 1)) = lo ∧
        m.read (stackAddr (s.sp - 2)) = s.p ||| 0x10 ∧
        m.read 0xFFFF = s.read 0xFFFF ∧ m.read 0xFFFE = s.read 0xFFFE)

/-- R220, R26 (D4, D6): BRK with I set only advances PC by BRK_LENGTH and CYC by BRK_SKIPPED_CYCLES. -/
def Obligations.BrkSkippedWhileInterruptsDisabled : Prop :=
  ∀ s : State, getFlag .i s.p = true → fits s (s.pc.toNat + s.cfg.brkLength) →
    exec .brk s = .next { s with
      pc := s.pc + BitVec.ofNat 16 s.cfg.brkLength, cyc := s.cyc + s.cfg.brkSkippedCycles }

/-- R221, R318: RTI pulls P (Unused forced on), then PC low, then PC high, and continues there without the plus 1 of RTS.
Nothing is said of the live Break bit (U9). -/
def Obligations.RtiResult : Prop :=
  ∀ s : State, ∃ q : Byte,
    exec .rti s = .next { s with
      p := q, sp := s.sp + 3, cyc := s.cyc + baseCycles Instr.rti.desc s,
      pc := hiLo (s.read (stackAddr (s.sp + 3))) (s.read (stackAddr (s.sp + 2))) } ∧
    getFlag .u q = true ∧
    ∀ f, f ≠ .u → f ≠ .b → getFlag f q = getFlag f (s.read (stackAddr (s.sp + 1)))

/-- R319, R220, R221: after a taken BRK, an RTI in any state that has BRK's SP and in which the three stack cells read as BRK
left them continues at the byte after the BRK (D5, DESIGN CHOICE, log 12), with SP and every flag but Break and Unused as before
the BRK, I clear again, and nothing else of that state changed: whatever the handler did. Memory is one of cells. -/
def Obligations.RtiReturnsAfterBrk : Prop :=
  ∀ s t w : State,
    getFlag .i s.p = false → hasCells s.cfg.memoryMap = true → s.mem.wf s.cfg.memoryMap = true →
    exec .brk s = .next t →
    w.cfg = t.cfg → w.sp = t.sp →
    (∀ k ∈ [s.sp, s.sp - 1, s.sp - 2], w.read (stackAddr k) = t.read (stackAddr k)) →
    ∃ q : Byte,
      exec .rti w = .next { w with
        p := q, pc := s.pc + 1, sp := s.sp, cyc := w.cyc + baseCycles Instr.rti.desc w } ∧
      FlagsKept [.b, .u] s.p q ∧ getFlag .u q = true

/-- R222, R223: PHA pushes A and PHP pushes the status with Break forced on; no register but SP, PC and CYC changes. In a memory of
cells the byte then stands at the stack cell. -/
def Obligations.PushInstructionsResult : Prop :=
  ∀ (i : Instr) (s : State) (v : Byte),
    (i = .pha ∧ v = s.a ∨ i = .php ∧ v = s.p ||| 0x10) → runsClear i s →
    exec i s = .next { s with
      mem := (s.push v).mem, sp := s.sp - 1, pc := nextPc i s, cyc := s.cyc + baseCycles i.desc s } ∧
    (hasCells s.cfg.memoryMap = true → s.mem.wf s.cfg.memoryMap = true → (s.push v).read (stackAddr s.sp) = v)

/-- R224, R225: PLA pulls into A with Z and N of the pulled value; PLP pulls into P with Break forced off and Unused on. -/
def Obligations.PullInstructionsResult : Prop :=
  ∀ s : State,
    (runsClear .pla s → ∃ q : Byte,
      exec .pla s = .next { s with
        a := s.read (stackAddr (s.sp + 1)), p := q, sp := s.sp + 1, pc := nextPc .pla s, cyc := s.cyc + baseCycles Instr.pla.desc s } ∧
      getFlag .z q = decide (s.read (stackAddr (s.sp + 1)) = 0) ∧
      getFlag .n q = decide (128 ≤ (s.read (stackAddr (s.sp + 1))).toNat) ∧ FlagsKept [.z, .n] s.p q) ∧
    (runsClear .plp s → ∃ q : Byte,
      exec .plp s = .next { s with p := q, sp := s.sp + 1, pc := nextPc .plp s, cyc := s.cyc + baseCycles Instr.plp.desc s } ∧
      getFlag .b q = false ∧ getFlag .u q = true ∧
      ∀ f, f ≠ .b → f ≠ .u → getFlag f q = getFlag f (s.read (stackAddr (s.sp + 1))))

/-- R224 (S5), R222: after a PHA, a PLA in any state that has PHA's SP and in which the stack cell reads as PHA left it loads the
pushed accumulator and sets Z and N from it, with SP as before the PHA and nothing else of that state changed: whatever happened to
A in between. Memory is one of cells. -/
def Obligations.PlaRestoresPushedAccumulator : Prop :=
  ∀ s t w : State,
    hasCells s.cfg.memoryMap = true → s.mem.wf s.cfg.memoryMap = true → exec .pha s = .next t →
    w.cfg = t.cfg → w.sp = t.sp → w.read (stackAddr s.sp) = t.read (stackAddr s.sp) → runsClear .pla w →
    ∃ q : Byte,
      exec .pla w = .next { w with
        a := s.a, p := q, sp := s.sp, pc := nextPc .pla w, cyc := w.cyc + baseCycles Instr.pla.desc w } ∧
      getFlag .z q = decide (s.a = 0) ∧ getFlag .n q = decide (128 ≤ s.a.toNat) ∧ FlagsKept [.z, .n] w.p q

/-! ### Loads, stores, transfers -/

/-- R240 to R242 (D17): LDA, LDX, LDY in every mode load the operand byte and set Z and N from it. -/
def Obligations.LoadResult : Prop :=
  ∀ (i : Instr) (s : State) (v : Byte),
    i.desc.mnemonic ∈ [Mnemonic.lda, .ldx, .ldy] → operandValue i.desc.operand s = some v → runsClear i s →
    ∃ q : Byte,
      exec i s = .next { s with
        a := if i.desc.mnemonic = .lda then v else s.a
        x := if i.desc.mnemonic = .ldx then v else s.x
        y := if i.desc.mnemonic = .ldy then v else s.y
        p := q, pc := nextPc i s, cyc := s.cyc + baseCycles i.desc s + operandPenalty i.desc s } ∧
      getFlag .z q = decide (v = 0) ∧ getFlag .n q = decide (128 ≤ v.toNat) ∧ FlagsKept [.z, .n] s.p q

/-- R243 to R245, R135 (D17): STA, STX, STY write their register to the effective address, change no flag and pay no
page-cross penalty. -/
def Obligations.StoreResult : Prop :=
  ∀ (i : Instr) (m : MemOperand) (s : State) (v : Byte),
    (i.desc.mnemonic = .sta ∧ v = s.a ∨ i.desc.mnemonic = .stx ∧ v = s.x ∨ i.desc.mnemonic = .sty ∧ v = s.y) →
    i.desc.operand = .mem m → runsClear i s →
    exec i s = .next { s.write (effAddr m s) v with pc := nextPc i s, cyc := s.cyc + baseCycles i.desc s }

/-- R246 to R250 (D17): TAX, TAY, TXA, TYA, TSX copy a register and set Z and N from it. -/
def Obligations.TransferResult : Prop :=
  ∀ (i : Instr) (s : State),
    i ∈ [Instr.tax, .tay, .txa, .tya, .tsx] → runsClear i s →
    ∃ v q : Byte,
      v = (if i = .txa then s.x else if i = .tya then s.y else if i = .tsx then s.sp else s.a) ∧
      exec i s = .next { s with
        a := if i = .txa ∨ i = .tya then v else s.a
        x := if i = .tax ∨ i = .tsx then v else s.x
        y := if i = .tay then v else s.y
        p := q, pc := nextPc i s, cyc := s.cyc + baseCycles i.desc s } ∧
      getFlag .z q = decide (v = 0) ∧ getFlag .n q = decide (128 ≤ v.toNat) ∧ FlagsKept [.z, .n] s.p q

/-- R251 (D17): TXS copies X to SP and changes no flag. -/
def Obligations.TxsChangesNoFlag : Prop :=
  ∀ s : State, runsClear .txs s →
    exec .txs s = .next { s with sp := s.x, pc := nextPc .txs s, cyc := s.cyc + baseCycles Instr.txs.desc s }

/-! ### Logic, increments, flags -/

/-- R270 to R272 (D17): AND, ORA, EOR in every mode combine A with the operand byte bit by bit and set Z and N. -/
def Obligations.LogicResult : Prop :=
  ∀ (i : Instr) (s : State) (v : Byte),
    i.desc.mnemonic ∈ [Mnemonic.and, .ora, .eor] → operandValue i.desc.operand s = some v → runsClear i s →
    ∃ r q : Byte,
      exec i s = .next { s with a := r, p := q, pc := nextPc i s, cyc := s.cyc + baseCycles i.desc s + operandPenalty i.desc s } ∧
      (∀ k < 8, r.getLsbD k =
        if i.desc.mnemonic = .and then s.a.getLsbD k && v.getLsbD k
        else if i.desc.mnemonic = .ora then s.a.getLsbD k || v.getLsbD k
        else s.a.getLsbD k != v.getLsbD k) ∧
      getFlag .z q = decide (r = 0) ∧ getFlag .n q = decide (128 ≤ r.toNat) ∧ FlagsKept [.z, .n] s.p q

/-- R273, R9 (Z and N: D17): BIT takes Z from `A & v`, V from bit 6 and N from bit 7 of the tested byte, and changes nothing else. -/
def Obligations.BitResult : Prop :=
  ∀ (i : Instr) (s : State) (v : Byte),
    i.desc.mnemonic = .bit → operandValue i.desc.operand s = some v → runsClear i s →
    ∃ q : Byte,
      exec i s = .next { s with p := q, pc := nextPc i s, cyc := s.cyc + baseCycles i.desc s } ∧
      getFlag .z q = decide (s.a &&& v = 0) ∧ getFlag .v q = decide (64 ≤ v.toNat % 128) ∧
      getFlag .n q = decide (128 ≤ v.toNat) ∧ FlagsKept [.z, .v, .n] s.p q

/-- R274, R275, R136 (D10, D17): INC and DEC change a memory byte by one modulo 256, set Z and N, and leave C, V and A alone.
`modifyPenalty`: `PageCrossCyclesByPath`. -/
def Obligations.IncDecMemoryResult : Prop :=
  ∀ (i : Instr) (m : MemOperand) (s : State) (k : Nat),
    (i.desc.mnemonic = .inc ∧ k = 1 ∨ i.desc.mnemonic = .dec ∧ k = 255) → i.desc.operand = .mem m → runsClear i s →
    ∃ r q : Byte,
      exec i s = .next { s.write (effAddr m s) r with
        p := q, pc := nextPc i s, cyc := s.cyc + baseCycles i.desc s + modifyPenalty m s } ∧
      r.toNat = ((s.read (effAddr m s)).toNat + k) % 256 ∧
      getFlag .z q = decide (r = 0) ∧ getFlag .n q = decide (128 ≤ r.toNat) ∧ FlagsKept [.z, .n] s.p q

/-- R276 to R279 (D17): INX, INY, DEX, DEY change their register by one modulo 256 and set Z and N. -/
def Obligations.IncDecRegisterResult : Prop :=
  ∀ (i : Instr) (s : State),
    i ∈ [Instr.inx, .iny, .dex, .dey] → runsClear i s →
    ∃ r q : Byte,
      exec i s = .next { s with
        x := if i = .inx ∨ i = .dex then r else s.x
        y := if i = .iny ∨ i = .dey then r else s.y
        p := q, pc := nextPc i s, cyc := s.cyc + baseCycles i.desc s } ∧
      r.toNat = ((if i = .inx ∨ i = .dex then s.x.toNat else s.y.toNat) +
        if i = .inx ∨ i = .iny then 1 else 255) % 256 ∧
      getFlag .z q = decide (r = 0) ∧ getFlag .n q = decide (128 ≤ r.toNat) ∧ FlagsKept [.z, .n] s.p q

/-- R280 to R286 (D17): each flag instruction writes one bit of P and nothing else. -/
def Obligations.FlagInstructionResult : Prop :=
  ∀ (i : Instr) (s : State) (f : Flag) (b : Bool),
    flagSetting i.desc.mnemonic = some (f, b) → runsClear i s →
    ∃ q : Byte, exec i s = .next { s with p := q, pc := nextPc i s, cyc := s.cyc + baseCycles i.desc s } ∧
      getFlag f q = b ∧ FlagsKept [f] s.p q

/-- R287 (D17): NOP only advances PC and CYC. -/
def Obligations.NopResult : Prop :=
  ∀ s : State, runsClear .nop s →
    exec .nop s = .next { s with pc := nextPc .nop s, cyc := s.cyc + baseCycles Instr.nop.desc s }

/-! ### Whole-machine rules -/

/-- R56, R310, R320: with addresses that wrap, every instruction completes in every state: none faults, none is refused. -/
def Obligations.EveryInstructionCompletes : Prop :=
  ∀ (i : Instr) (s : State), s.cfg.addrOverflow = .wrap → ∃ t, exec i s = .next t

/-- R310, R312, R316: the only way an executed instruction can stop is `UnmappedAddress` of a sum above `$FFFF`, and only with
`ADDR_OVERFLOW = fault`. -/
def Obligations.ExecutionStopsOnlyOnAddressOverflow : Prop :=
  ∀ (i : Instr) (s : State),
    (∃ t, exec i s = .next t) ∨
    (s.cfg.addrOverflow = .fault ∧ ∃ sum, 0xFFFF < sum ∧ exec i s = .fault (.unmappedAddress sum))

/-- R56, R312 (D7): with `ADDR_OVERFLOW = fault`, an instruction of the three data paths whose indexed address passes `$FFFF`
stops with that sum. -/
def Obligations.IndexedAddressPastTopFaults : Prop :=
  ∀ (i : Instr) (m : MemOperand) (s : State),
    s.cfg.addrOverflow = .fault → i.desc.operand = .mem m → 0xFFFF < addrSum m s →
    exec i s = .fault (.unmappedAddress (addrSum m s))

/-- R22, R56, R98, R312 (D7): with `ADDR_OVERFLOW = fault`, where a sum made from PC or a pulled return address passes `$FFFF` the
instruction stops with that sum: `PC + bytes` of one that falls through (its operand's sum does not pass), `PC + 2` of a branch and
of JSR, a taken branch's target, the `+ 1` of RTS, `PC + 1` of a taken BRK and `PC + BRK_LENGTH` of a skipped one. -/
def Obligations.ProgramCounterPastTopFaults : Prop :=
  ∀ s : State, s.cfg.addrOverflow = .fault →
    (∀ i : Instr, i.desc.mnemonic.path ≠ .control → i.desc.mnemonic ∉ [Mnemonic.brk, .rti, .rts] →
      operandFits i.desc.operand s → 0xFFFF < s.pc.toNat + i.desc.bytes →
      exec i s = .fault (.unmappedAddress (s.pc.toNat + i.desc.bytes))) ∧
    (∀ (i : Instr) (disp : Byte), i.desc.operand = .rel disp → 0xFFFF < s.pc.toNat + 2 →
      exec i s = .fault (.unmappedAddress (s.pc.toNat + 2))) ∧
    (∀ (i : Instr) (disp : Byte) (f : Flag) (want : Bool),
      branchTest i.desc.mnemonic = some (f, want) → i.desc.operand = .rel disp → getFlag f s.p = want →
      s.pc.toNat + 2 ≤ 0xFFFF → 0xFFFF < (s.pc.toNat : Int) + 2 + disp.toInt →
      exec i s = .fault (.unmappedAddress ((s.pc.toNat : Int) + 2 + disp.toInt).toNat)) ∧
    (∀ a : Addr, 0xFFFF < s.pc.toNat + 2 → exec (.jsr a) s = .fault (.unmappedAddress (s.pc.toNat + 2))) ∧
    (s.read (stackAddr (s.sp + 1)) = 0xFF → s.read (stackAddr (s.sp + 2)) = 0xFF →
      exec .rts s = .fault (.unmappedAddress 0x10000)) ∧
    (getFlag .i s.p = false → 0xFFFF < s.pc.toNat + 1 →
      exec .brk s = .fault (.unmappedAddress (s.pc.toNat + 1))) ∧
    (getFlag .i s.p = true → 0xFFFF < s.pc.toNat + s.cfg.brkLength →
      exec .brk s = .fault (.unmappedAddress (s.pc.toNat + s.cfg.brkLength)))

/-- R29, R36, R72: every step keeps the invariant: the Unused bit reads 1 and memory is in its canonical form. -/
def Obligations.StepKeepsInvariant : Prop :=
  ∀ s t : State, s.Inv → step s = .next t → t.Inv

/-- R35, R6: an instruction changes A, X, Y or SP only if the spec's table says it writes it, and never the parameters. -/
def Obligations.RegistersChangeOnlyByTheirWriters : Prop :=
  ∀ (i : Instr) (s t : State), exec i s = .next t →
    (writesA i.desc = false → t.a = s.a) ∧ (writesX i.desc = false → t.x = s.x) ∧
    (writesY i.desc = false → t.y = s.y) ∧ (writesSp i.desc s = false → t.sp = s.sp) ∧ t.cfg = s.cfg

/-- R24 to R31: an instruction changes no flag but those the spec says it writes. Nothing is said of Break after BRK (U9). -/
def Obligations.FlagsChangeOnlyByTheirWriters : Prop :=
  ∀ (i : Instr) (s t : State) (f : Flag), exec i s = .next t → f ∉ flagsWritten i.desc →
    (i.desc.mnemonic = .brk → f ≠ .b) → getFlag f t.p = getFlag f s.p

/-- R135, R136, R64, R71: what an instruction leaves of memory is one `MemWrite` to each address it stores to, in order, and nothing
else. In a memory of cells every byte that is not an image of such an address reads as before. -/
def Obligations.MemoryChangesOnlyWhereStored : Prop :=
  ∀ (i : Instr) (s t : State), exec i s = .next t →
    (∃ vs : List Byte, vs.length = (storedAddrs i s).length ∧
      t.mem = ((storedAddrs i s).zip vs).foldl (fun m w => m.writeAt s.cfg.memoryMap w.1 w.2) s.mem) ∧
    (hasCells s.cfg.memoryMap = true → ∀ a : Addr,
      (∀ e ∈ storedAddrs i s, cellOf s.cfg.memoryMap a ≠ cellOf s.cfg.memoryMap e) → t.read a = s.read a)

/-- R32, R36, R98: a step never decreases CYC, and it adds at least the base cycles of the instruction it ran unless that was a
BRK it skipped. -/
def Obligations.CyclesAccumulate : Prop :=
  ∀ (i : Instr) (s t : State), exec i s = .next t →
    s.cyc ≤ t.cyc ∧ ((i.desc.mnemonic = .brk → getFlag .i s.p = false) → s.cyc + baseCycles i.desc s ≤ t.cyc)
end

