-- ==== Sys2Proof/Laws/Bits.lean ====
section
/-! SUPPORT. The bit helpers of Machine/Bits.lean as arithmetic (00_scope.md R7, R8). -/

namespace Sys2Proof.Machine

theorem zext16_toNat (v : Byte) : (zext16 v).toNat = v.toNat := by
  have := v.isLt
  simp [zext16]
  omega

theorem page_toNat (a : Addr) : (page a).toNat = a.toNat / 256 := by
  have := a.isLt
  simp [page, Nat.shiftRight_eq_div_pow]
  omega

theorem lowByte_toNat (a : Addr) : (lowByte a).toNat = a.toNat % 256 := by
  simp [lowByte]

theorem hiLo_toNat (h l : Byte) : (hiLo h l).toNat = l.toNat + 256 * h.toNat := by
  rw [hiLo, BitVec.toNat_append, ← Nat.shiftLeft_add_eq_or_of_lt l.isLt, Nat.shiftLeft_eq]
  omega

/-- The two's-complement reading of a displacement, modulo 65536. -/
theorem sext16_toNat (d : Byte) : ((sext16 d).toNat : Int) = d.toInt % 65536 := by
  have h := BitVec.toInt_signExtend_of_le (x := d) (v := 16) (by omega)
  rw [← h, BitVec.toInt_eq_toNat_cond]
  have := (BitVec.signExtend 16 d).isLt
  simp only [sext16]
  split <;> omega

/-- Adding an 8-bit index to a 16-bit base. -/
theorem add_zext16_toNat (a : Addr) (x : Byte) : (a + zext16 x).toNat = (a.toNat + x.toNat) % 65536 := by
  rw [BitVec.toNat_add, zext16_toNat]

/-- The high byte changes exactly when the low byte of the base plus the index passes 255. -/
theorem page_add_ne_iff (a : Addr) (x : Byte) : page (a + zext16 x) ≠ page a ↔ 255 < a.toNat % 256 + x.toNat := by
  have := a.isLt
  have := x.isLt
  rw [ne_eq, ← BitVec.toNat_inj, page_toNat, page_toNat, add_zext16_toNat]
  omega

theorem msb_eq_decide_ge (v : Byte) : v.msb = decide (128 ≤ v.toNat) := by
  rw [BitVec.msb_eq_decide]

theorem getLsbD_six (v : Byte) : v.getLsbD 6 = decide (64 ≤ v.toNat % 128) := by
  revert v
  decide

theorem getLsbD_seven (v : Byte) : v.getLsbD 7 = decide (128 ≤ v.toNat) := by
  revert v
  decide

theorem getLsbD_zero (v : Byte) : v.getLsbD 0 = decide (v.toNat % 2 = 1) := by
  revert v
  decide

end Sys2Proof.Machine
end

