-- ==== Sys2Proof/Laws/Decode.lean ====
section
/-! SUPPORT. Laws of the decoder and the encoder: what `instrOf` selects, and the byte order of 16-bit operands. -/

namespace Sys2Proof

open Sys2Proof.Machine (hiLo lowByte page littleEndian)

/-- A 16-bit operand is its two bytes put together (R53, R93). -/
@[simp] theorem hiLo_page_lowByte (a : Addr) : hiLo (page a) (lowByte a) = a := by
  simp only [hiLo, page, lowByte]
  ext k hk
  simp only [BitVec.getElem_append, BitVec.getElem_extractLsb']
  split
  · rw [Nat.zero_add, BitVec.getLsbD_eq_getElem]
  · next h =>
    rw [show 8 + (k - 8) = k by omega, BitVec.getLsbD_eq_getElem]

@[simp] theorem page_hiLo (h l : Byte) : page (hiLo h l) = h := by
  simp only [hiLo, page]
  ext k hk
  simp only [BitVec.getElem_extractLsb']
  rw [BitVec.getLsbD_append, if_neg (by omega), show 8 + k - 8 = k by omega, BitVec.getLsbD_eq_getElem]

@[simp] theorem lowByte_hiLo (h l : Byte) : lowByte (hiLo h l) = l := by
  simp only [hiLo, lowByte]
  ext k hk
  simp only [BitVec.getElem_extractLsb']
  rw [BitVec.getLsbD_append, if_pos (by omega), Nat.zero_add, BitVec.getLsbD_eq_getElem]

/-! ### Operands and their bytes -/

@[simp] theorem ofBytes_mode (mode : Mode) (b1 b2 : Byte) : (Operand.ofBytes mode b1 b2).mode = mode := by
  cases mode <;> rfl

/-- An operand assembled from bytes has those bytes, as many as its format has (R92, R93). -/
theorem ofBytes_bytes (mode : Mode) (b1 b2 : Byte) :
    (Operand.ofBytes mode b1 b2).bytes = [b1, b2].take (mode.length - 1) := by
  cases mode <;> simp [Operand.ofBytes, Operand.bytes, MemOperand.bytes, littleEndian, Mode.length]

/-- The bytes of an operand assemble to it again, whatever stands in the bytes its format does not have. -/
theorem ofBytes_of_bytes (o : Operand) (b1 b2 : Byte) (h1 : 1 < o.mode.length → b1 = o.bytes.getD 0 0)
    (h2 : 2 < o.mode.length → b2 = o.bytes.getD 1 0) : Operand.ofBytes o.mode b1 b2 = o := by
  cases o with
  | implied => rfl
  | accumulator => rfl
  | imm v => obtain rfl := h1 (Nat.le_of_ble_eq_true rfl); rfl
  | rel v => obtain rfl := h1 (Nat.le_of_ble_eq_true rfl); rfl
  | ind a =>
    obtain rfl := h1 (Nat.le_of_ble_eq_true rfl)
    obtain rfl := h2 (Nat.le_of_ble_eq_true rfl)
    exact congrArg Operand.ind (hiLo_page_lowByte a)
  | mem m =>
    cases m with
    | zp b => obtain rfl := h1 (Nat.le_of_ble_eq_true rfl); rfl
    | zpX b => obtain rfl := h1 (Nat.le_of_ble_eq_true rfl); rfl
    | zpY b => obtain rfl := h1 (Nat.le_of_ble_eq_true rfl); rfl
    | indX b => obtain rfl := h1 (Nat.le_of_ble_eq_true rfl); rfl
    | indY b => obtain rfl := h1 (Nat.le_of_ble_eq_true rfl); rfl
    | abs a =>
      obtain rfl := h1 (Nat.le_of_ble_eq_true rfl)
      obtain rfl := h2 (Nat.le_of_ble_eq_true rfl)
      exact congrArg (Operand.mem ∘ MemOperand.abs) (hiLo_page_lowByte a)
    | absX a =>
      obtain rfl := h1 (Nat.le_of_ble_eq_true rfl)
      obtain rfl := h2 (Nat.le_of_ble_eq_true rfl)
      exact congrArg (Operand.mem ∘ MemOperand.absX) (hiLo_page_lowByte a)
    | absY a =>
      obtain rfl := h1 (Nat.le_of_ble_eq_true rfl)
      obtain rfl := h2 (Nat.le_of_ble_eq_true rfl)
      exact congrArg (Operand.mem ∘ MemOperand.absY) (hiLo_page_lowByte a)

/-- The operand bytes are one fewer than the format's length (R92). -/
theorem length_operand_bytes (o : Operand) : o.bytes.length + 1 = o.mode.length := by
  cases o with
  | mem m => cases m <;> rfl
  | _ => rfl

/-- Every format has 1, 2 or 3 bytes (R90). -/
theorem length_cases (mode : Mode) : mode.length = 1 ∨ mode.length = 2 ∨ mode.length = 3 := by
  cases mode <;> simp [Mode.length]

/-! ### Instructions by mnemonic and operand -/

/-- An instruction is the one its mnemonic and operand select. -/
@[simp] theorem instr_desc (i : Instr) : i.desc.instr = some i := by
  cases i <;> rfl

/-- What a mnemonic and an operand select has them. -/
theorem desc_of_instr {d : Descriptor} {i : Instr} (h : d.instr = some i) : i.desc = d := by
  obtain ⟨mn, o⟩ := d
  cases mn
  all_goals
    simp only [Descriptor.instr] at h
    split at h
    all_goals first
      | (obtain rfl := Option.some.inj h; rfl)
      | cases h

/-- Every instruction is well formed: its mnemonic has its mode (R138). -/
theorem modeOk_desc (i : Instr) : i.desc.modeOk = true := by
  cases i <;> rfl

/-- A mnemonic with an operand of a mode it has is an instruction (R138). -/
theorem instr_of_modeOk {d : Descriptor} (h : d.modeOk = true) : ∃ i, d.instr = some i := by
  obtain ⟨mn, o⟩ := d
  cases mn <;> cases o <;> (try (rename_i m; cases m)) <;> first
    | exact ⟨_, rfl⟩
    | exact absurd h (by decide)
    | (simp [Descriptor.modeOk, Mnemonic.modes, Operand.mode, MemOperand.mode] at h)

/-! ### Looking a table up -/

/-- What a lookup gives: a well-formed row of the table for that opcode (R94). -/
theorem describe_eq_some {t : InstructionTable} {op : Byte} {r : TableRow} (h : describe t op = some r) :
    r ∈ t ∧ r.opcode = op ∧ r.wellFormed = true := by
  have hp := List.find?_some h
  simp only [Bool.and_eq_true, beq_iff_eq] at hp
  exact ⟨List.mem_of_find?_eq_some h, hp⟩

/-- What the row of a pair is: a row of that pair which its own opcode is looked up to. -/
theorem rowFor_eq_some {t : InstructionTable} {mn : Mnemonic} {mode : Mode} {r : TableRow} (h : rowFor t mn mode = some r) :
    r.mnemonic = mn ∧ r.mode = mode ∧ describe t r.opcode = some r := by
  have hp := List.find?_some h
  simp only [Bool.and_eq_true, beq_iff_eq] at hp
  exact ⟨hp.1.1, hp.1.2, hp.2⟩

/-- A row that an opcode is looked up to gives its pair a row. -/
theorem rowFor_isSome {t : InstructionTable} {op : Byte} {r : TableRow} (h : describe t op = some r) :
    (rowFor t r.mnemonic r.mode).isSome = true := by
  obtain ⟨hm, rfl, -⟩ := describe_eq_some h
  rw [rowFor, List.find?_isSome]
  exact ⟨r, hm, by simp [h]⟩

/-- A well-formed row has a mode of its mnemonic and the length of its format. -/
theorem wellFormed_row {r : TableRow} (h : r.wellFormed = true) :
    r.mnemonic.modes.contains r.mode = true ∧ r.bytes = r.mode.length ∧
      r.pageCross = r.mnemonic.paysPageCross r.mode := by
  simp only [TableRow.wellFormed, TableRow.modeOk, TableRow.lengthOk, TableRow.penaltyOk, Bool.and_eq_true, beq_iff_eq] at h
  exact ⟨h.1.1, h.1.2, h.2⟩

/-- A well-formed row and any operand bytes are an instruction of the row's mnemonic, mode and length: no value of an operand
byte is reserved (R90, R97). -/
theorem row_instr {r : TableRow} (h : r.wellFormed = true) (b1 b2 : Byte) :
    ∃ i, r.instr b1 b2 = some i ∧ i.desc = ⟨r.mnemonic, Operand.ofBytes r.mode b1 b2⟩ ∧ i.desc.bytes = r.bytes := by
  obtain ⟨hm, hl, -⟩ := wellFormed_row h
  obtain ⟨i, hi⟩ := instr_of_modeOk (d := ⟨r.mnemonic, Operand.ofBytes r.mode b1 b2⟩) (by simpa [Descriptor.modeOk] using hm)
  have hd := desc_of_instr hi
  exact ⟨i, hi, hd, by rw [Descriptor.bytes, hd, ofBytes_mode, hl]⟩

/-- In a table whose opcodes are distinct, every well-formed row is the one its opcode is looked up to (R94). -/
theorem describe_of_mem {t : InstructionTable} (hn : (t.map TableRow.opcode).Nodup) {r : TableRow} (h : r ∈ t)
    (hw : r.wellFormed = true) : describe t r.opcode = some r := by
  induction t with
  | nil => cases h
  | cons q t ih =>
    rw [List.map_cons, List.nodup_cons] at hn
    rcases List.mem_cons.mp h with rfl | h
    · simp [describe, hw]
    · have hne : ¬ q.opcode = r.opcode := fun he => hn.1 (he ▸ List.mem_map_of_mem h)
      rw [describe, List.find?_cons_of_neg (by simp [hne])]
      exact ih hn.2 h

/-- The default table is well formed (R6, R94, R137, R138). -/
theorem standardTable_wellFormed : InstructionTable.wellFormed standardTable = true := by
  decide +kernel

/-- Every row of the default table is the one its opcode is looked up to. -/
theorem describe_standardTable {r : TableRow} (h : r ∈ standardTable) : describe standardTable r.opcode = some r := by
  have hw := standardTable_wellFormed
  simp only [InstructionTable.wellFormed, InstructionTable.opcodesDistinct, Bool.and_eq_true, decide_eq_true_eq,
    List.all_eq_true] at hw
  exact describe_of_mem hw.1.2 h (hw.1.1 r h)

/-- The default table has a row for every instruction (R95, R96). -/
theorem rowFor_standardTable (i : Instr) : ∃ r, rowFor standardTable i.desc.mnemonic i.desc.operand.mode = some r := by
  have hp : (standardTable.find? fun r => r.mnemonic == i.desc.mnemonic && r.mode == i.desc.operand.mode).isSome = true := by
    cases i <;> rfl
  obtain ⟨r, hm, hr⟩ := List.find?_isSome.mp hp
  simp only [Bool.and_eq_true, beq_iff_eq] at hr
  have := rowFor_isSome (describe_standardTable hm)
  rw [hr.1, hr.2] at this
  exact Option.isSome_iff_exists.mp this

end Sys2Proof
end

