-- ==== Sys2Proof/Laws/Flags.lean ====
section
/-! SUPPORT. Laws of the status register: what a flag helper changes and what it leaves (00_scope.md R9, 10_state.md R23). -/

namespace Sys2Proof.Machine

/-- A flag reads as last written; the other flags are untouched. -/
@[simp] theorem getFlag_setFlag (f g : Flag) (v : Bool) (p : Byte) :
    getFlag f (setFlag g v p) = if f = g then v else getFlag f p := by
  cases f <;> cases g <;> cases v <;> simp [getFlag, setFlag, flagMask, flagIndex]

@[simp] theorem getFlag_setZN (f : Flag) (v p : Byte) :
    getFlag f (setZN v p) = if f = .n then v.msb else if f = .z then v == 0 else getFlag f p := by
  simp [setZN]

/-- Two status bytes with the same eight flags are equal. -/
theorem status_ext {p q : Byte} (h : ∀ f, getFlag f p = getFlag f q) : p = q := by
  have hc := h .c
  have hz := h .z
  have hi := h .i
  have hd := h .d
  have hb := h .b
  have hu := h .u
  have hv := h .v
  have hn := h .n
  simp only [getFlag, flagIndex] at hc hz hi hd hb hu hv hn
  apply BitVec.eq_of_getLsbD_eq
  intro k hk
  have : k = 0 ∨ k = 1 ∨ k = 2 ∨ k = 3 ∨ k = 4 ∨ k = 5 ∨ k = 6 ∨ k = 7 := by omega
  rcases this with rfl | rfl | rfl | rfl | rfl | rfl | rfl | rfl <;> assumption

@[simp] theorem getFlag_pushedStatus (f : Flag) (p : Byte) :
    getFlag f (pushedStatus p) = if f = .b then true else getFlag f p := by
  cases f <;> simp [getFlag, pushedStatus, flagIndex]

@[simp] theorem getFlag_rtiStatus (f : Flag) (p : Byte) :
    getFlag f (rtiStatus p) = if f = .u then true else getFlag f p := by
  cases f <;> simp [getFlag, rtiStatus, flagIndex]

@[simp] theorem getFlag_resetStatus (f : Flag) (p : Byte) :
    getFlag f (resetStatus p) = if f = .u then true else getFlag f p := by
  cases f <;> simp [getFlag, resetStatus, flagIndex]

@[simp] theorem getFlag_plpStatus (f : Flag) (p : Byte) :
    getFlag f (plpStatus p) = if f = .u then true else if f = .b then false else getFlag f p := by
  cases f <;> simp [getFlag, plpStatus, flagIndex]

theorem carryBit_le_one (p : Byte) : carryBit p ≤ 1 := by
  unfold carryBit
  split <;> omega

/-- R150's flags, one by one. -/
theorem getFlag_addFlags (f : Flag) (a v p : Byte) :
    getFlag f (addFlags a v p) =
      match f with
      | .c => decide (255 < addSum a v p)
      | .v => a.msb == v.msb && (BitVec.ofNat 8 (addSum a v p)).msb != a.msb
      | .z => BitVec.ofNat 8 (addSum a v p) == 0
      | .n => (BitVec.ofNat 8 (addSum a v p)).msb
      | g => getFlag g p := by
  cases f <;> simp [addFlags]

/-- R151's flags, one by one. -/
theorem getFlag_subFlags (f : Flag) (a v p : Byte) :
    getFlag f (subFlags a v p) =
      match f with
      | .c => decide (0 ≤ subDiff a v p)
      | .v => a.msb != v.msb && (BitVec.ofInt 8 (subDiff a v p)).msb != a.msb
      | .z => BitVec.ofInt 8 (subDiff a v p) == 0
      | .n => (BitVec.ofInt 8 (subDiff a v p)).msb
      | g => getFlag g p := by
  cases f <;> simp [subFlags]

/-- R152's flags, one by one. -/
theorem getFlag_compareFlags (f : Flag) (r v p : Byte) :
    getFlag f (compareFlags r v p) =
      match f with
      | .c => decide (v.toNat ≤ r.toNat)
      | .z => r == v
      | .n => (r - v).msb
      | g => getFlag g p := by
  cases f <;> simp [compareFlags]

/-- R273's flags, one by one. -/
theorem getFlag_bitFlags (f : Flag) (a v p : Byte) :
    getFlag f (bitFlags a v p) =
      match f with
      | .z => (a &&& v) == 0
      | .v => v.getLsbD 6
      | .n => v.getLsbD 7
      | g => getFlag g p := by
  cases f <;> simp [bitFlags]

/-- R170: each shift writes C from the bit shifted out, Z and N from the new byte, and no other flag. -/
theorem getFlag_shift (f : Flag) (v p : Byte) :
    (getFlag f (shiftLeft v p).2 =
      match f with
      | .c => v.getLsbD 7
      | .z => (shiftLeft v p).1 == 0
      | .n => (shiftLeft v p).1.msb
      | g => getFlag g p) ∧
    (getFlag f (shiftRight v p).2 =
      match f with
      | .c => v.getLsbD 0
      | .z => (shiftRight v p).1 == 0
      | .n => (shiftRight v p).1.msb
      | g => getFlag g p) ∧
    (getFlag f (rotateLeft v p).2 =
      match f with
      | .c => v.getLsbD 7
      | .z => (rotateLeft v p).1 == 0
      | .n => (rotateLeft v p).1.msb
      | g => getFlag g p) ∧
    (getFlag f (rotateRight v p).2 =
      match f with
      | .c => v.getLsbD 0
      | .z => (rotateRight v p).1 == 0
      | .n => (rotateRight v p).1.msb
      | g => getFlag g p) := by
  cases f <;> simp [shiftLeft, shiftRight, rotateLeft, rotateRight]

/-- R170 as arithmetic: the byte each shift makes. -/
theorem shift_toNat (v p : Byte) :
    (shiftLeft v p).1.toNat = shiftedByte .asl v.toNat (carryBit p) ∧
    (shiftRight v p).1.toNat = shiftedByte .lsr v.toNat (carryBit p) ∧
    (rotateLeft v p).1.toNat = shiftedByte .rol v.toNat (carryBit p) ∧
    (rotateRight v p).1.toNat = shiftedByte .ror v.toNat (carryBit p) := by
  have hl : ∀ v : Byte, (v <<< 1).toNat = 2 * v.toNat % 256 := by decide
  have hr : ∀ v : Byte, (v >>> 1).toNat = v.toNat / 2 := by decide
  have hrl : ∀ (v : Byte) (c : Fin 2), ((v <<< 1) ||| BitVec.ofNat 8 c).toNat = 2 * v.toNat % 256 + c := by decide
  have hrr : ∀ (v : Byte) (c : Fin 2), ((v >>> 1) ||| (BitVec.ofNat 8 c <<< 7)).toNat = v.toNat / 2 + 128 * c := by decide
  have hc := carryBit_le_one p
  exact ⟨hl v, hr v, hrl v ⟨carryBit p, by omega⟩, hrr v ⟨carryBit p, by omega⟩⟩

end Sys2Proof.Machine
end

