-- ==== Sys2Proof/Laws/Memory.lean ====
section
/-! SUPPORT. Laws of memory: read after write, and the canonical form that every operation keeps (20_memory.md R51, R65, R72). -/

namespace Sys2Proof.Machine

/-- Every address reaches a cell of the map. -/
theorem isCell_cellOf (map : MemoryMap) (a : Addr) : isCell map (cellOf map a) = true := by
  have ha : a.toNat < 65536 := a.isLt
  cases map
  · simp only [isCell, Bool.and_eq_true, decide_eq_true_eq, beq_iff_eq]
    simp only [cellOf, BitVec.toNat_ofNat]
    by_cases h1 : a.toNat < 8192
    · rw [if_pos h1, Nat.mod_eq_of_lt (by omega : a.toNat % 2048 < 2 ^ 16), if_pos (by omega)]
      exact ⟨by omega, by omega⟩
    · rw [if_neg h1]
      by_cases h2 : a.toNat < 16384
      · rw [if_pos h2, Nat.mod_eq_of_lt (by omega : 8192 + a.toNat % 8 < 2 ^ 16), if_neg (by omega), if_pos (by omega)]
        exact ⟨by omega, by omega⟩
      · rw [if_neg h2, Nat.mod_eq_of_lt ha, if_neg h1, if_neg h2]
        exact ⟨ha, rfl⟩
  · simp only [isCell, Bool.and_eq_true, decide_eq_true_eq, beq_iff_eq]
    simp only [cellOf, BitVec.toNat_ofNat]
    exact ⟨ha, Nat.mod_eq_of_lt ha⟩
  · rfl

/-- In a memory of cells, the address whose number is a cell reaches that cell. -/
theorem cellOf_ofNat_of_isCell {map : MemoryMap} {k : Nat} (hc : hasCells map = true) (h : isCell map k = true) :
    cellOf map (BitVec.ofNat 16 k) = k := by
  cases map with
  | reference => simp only [isCell, Bool.and_eq_true, beq_iff_eq] at h; exact h.2
  | flat => simp only [isCell, Bool.and_eq_true, beq_iff_eq] at h; exact h.2
  | substitute n => simp [hasCells] at hc

/-- A read of a memory of cells reads the address's cell. -/
theorem readAt_of_hasCells {map : MemoryMap} (hc : hasCells map = true) (m : Memory) (a : Addr) :
    m.readAt map a = m.byteAt (cellOf map a) := by
  cases map with
  | reference => rfl
  | flat => rfl
  | substitute n => simp [hasCells] at hc

/-- A write to a memory of cells stores in the address's cell or is discarded. -/
theorem writeAt_of_hasCells {map : MemoryMap} (hc : hasCells map = true) (m : Memory) (a : Addr) (v : Byte) :
    m.writeAt map a v = if storable map a then m.store (cellOf map a) v else m := by
  cases map with
  | reference => rfl
  | flat => rfl
  | substitute n => simp [hasCells] at hc

theorem byteAt_of_lt_wfFrom {map : MemoryMap} {lo k : Nat} (m : Memory) (h : m.wfFrom map lo = true) (hk : k < lo) :
    m.byteAt k = unlisted := by
  induction m generalizing lo with
  | nil => rfl
  | cons c rest ih =>
    obtain ⟨j, b⟩ := c
    simp only [Memory.wfFrom, Bool.and_eq_true, decide_eq_true_eq] at h
    obtain ⟨⟨⟨hlo, -⟩, -⟩, hr⟩ := h
    simp only [Memory.byteAt]
    rw [if_neg (by omega)]
    exact ih hr (by omega)

/-- A cell reads as the last byte stored in it, in canonical memory. -/
theorem byteAt_store_same {map : MemoryMap} {lo : Nat} (m : Memory) (h : m.wfFrom map lo = true) (k : Nat) (v : Byte) :
    (m.store k v).byteAt k = v := by
  induction m generalizing lo with
  | nil =>
    simp only [Memory.store]
    split
    · next hv => rw [hv]; rfl
    · simp [Memory.byteAt]
  | cons c rest ih =>
    obtain ⟨j, b⟩ := c
    simp only [Memory.wfFrom, Bool.and_eq_true, decide_eq_true_eq] at h
    obtain ⟨⟨⟨hlo, -⟩, -⟩, hr⟩ := h
    simp only [Memory.store]
    split
    · next hkj =>
      split
      · next hv =>
        simp only [Memory.byteAt]
        rw [if_neg (by omega), byteAt_of_lt_wfFrom rest hr (by omega), hv]
      · simp [Memory.byteAt]
    · split
      · next hkj =>
        split
        · next hv => rw [byteAt_of_lt_wfFrom rest hr (by omega), hv]
        · simp [Memory.byteAt]
      · next hne =>
        simp only [Memory.byteAt]
        rw [if_neg (by omega)]
        exact ih hr

/-- A store leaves every other cell alone. -/
theorem byteAt_store_other (m : Memory) {j k : Nat} (v : Byte) (hne : j ≠ k) : (m.store k v).byteAt j = m.byteAt j := by
  induction m with
  | nil =>
    simp only [Memory.store]
    split
    · rfl
    · simp [Memory.byteAt, Ne.symm hne]
  | cons c rest ih =>
    obtain ⟨i, b⟩ := c
    simp only [Memory.store]
    split
    · split
      · rfl
      · simp [Memory.byteAt, Ne.symm hne]
    · split
      · next hki =>
        subst hki
        split <;> simp [Memory.byteAt, Ne.symm hne]
      · simp only [Memory.byteAt, ih]

theorem wfFrom_mono {map : MemoryMap} {lo lo' : Nat} (m : Memory) (h : m.wfFrom map lo = true) (hle : lo' ≤ lo) :
    m.wfFrom map lo' = true := by
  cases m with
  | nil => rfl
  | cons c rest =>
    obtain ⟨j, b⟩ := c
    simp only [Memory.wfFrom, Bool.and_eq_true, decide_eq_true_eq] at h ⊢
    obtain ⟨⟨⟨hlo, h1⟩, h2⟩, hr⟩ := h
    exact ⟨⟨⟨by omega, h1⟩, h2⟩, hr⟩

theorem wfFrom_store {map : MemoryMap} {lo k : Nat} (m : Memory) (h : m.wfFrom map lo = true) (hk : lo ≤ k)
    (hc : isCell map k = true) (v : Byte) : (m.store k v).wfFrom map lo = true := by
  induction m generalizing lo with
  | nil =>
    simp only [Memory.store]
    split
    · rfl
    · next hv => simp [Memory.wfFrom, hk, hc, hv]
  | cons c rest ih =>
    obtain ⟨j, b⟩ := c
    have h0 := h
    simp only [Memory.wfFrom, Bool.and_eq_true, decide_eq_true_eq] at h
    obtain ⟨⟨⟨hlo, hcj⟩, hb⟩, hr⟩ := h
    simp only [Memory.store]
    split
    · next hkj =>
      split
      · exact h0
      · next hv =>
        simp only [Memory.wfFrom, Bool.and_eq_true, decide_eq_true_eq]
        exact ⟨⟨⟨hk, hc⟩, by simpa using hv⟩, ⟨⟨by omega, hcj⟩, hb⟩, hr⟩
    · split
      · next hkj =>
        split
        · exact wfFrom_mono rest hr (by omega)
        · next hv =>
          subst hkj
          simp only [Memory.wfFrom, Bool.and_eq_true, decide_eq_true_eq]
          exact ⟨⟨⟨hk, hc⟩, by simpa using hv⟩, hr⟩
      · simp only [Memory.wfFrom, Bool.and_eq_true, decide_eq_true_eq]
        exact ⟨⟨⟨hlo, hcj⟩, hb⟩, ih hr (by omega)⟩

/-- A store to a cell of the map keeps the canonical form. -/
theorem wf_store {map : MemoryMap} (m : Memory) (h : m.wf map = true) (a : Addr) (v : Byte) :
    (m.store (cellOf map a) v).wf map = true :=
  wfFrom_store m h (Nat.zero_le _) (isCell_cellOf map a) v

/-- Storing any cells of a substitute memory keeps the canonical form. -/
theorem wf_storeAll {n : Nat} (cells : List Host.Cell) (m : Memory) (h : m.wf (.substitute n) = true) :
    (m.storeAll cells).wf (.substitute n) = true := by
  induction cells generalizing m with
  | nil => exact h
  | cons c rest ih => exact ih _ (wfFrom_store m h (Nat.zero_le _) rfl c.2)

/-- A `MemWrite` keeps the canonical form, whatever memory stands behind the bus. -/
theorem wf_writeAt {map : MemoryMap} (m : Memory) (h : m.wf map = true) (a : Addr) (v : Byte) :
    (m.writeAt map a v).wf map = true := by
  cases map with
  | substitute n => exact wf_storeAll _ m h
  | reference =>
    rw [writeAt_of_hasCells rfl]
    split
    · exact wf_store m h a v
    · exact h
  | flat => exact wf_store m h a v

/-- Canonical memories that read alike in every cell are equal data. -/
theorem memory_ext {map : MemoryMap} {lo : Nat} (m n : Memory) (hm : m.wfFrom map lo = true) (hn : n.wfFrom map lo = true)
    (h : ∀ k, m.byteAt k = n.byteAt k) : m = n := by
  induction m generalizing n lo with
  | nil =>
    cases n with
    | nil => rfl
    | cons c rest =>
      obtain ⟨j, b⟩ := c
      simp only [Memory.wfFrom, Bool.and_eq_true, bne_iff_ne] at hn
      have := h j
      simp [Memory.byteAt] at this
      exact absurd this.symm hn.1.2
  | cons c rest ih =>
    obtain ⟨j, b⟩ := c
    have hm0 := hm
    simp only [Memory.wfFrom, Bool.and_eq_true, decide_eq_true_eq, bne_iff_ne] at hm
    obtain ⟨⟨⟨hlo, -⟩, hb⟩, hr⟩ := hm
    cases n with
    | nil =>
      have := h j
      simp [Memory.byteAt] at this
      exact absurd this hb
    | cons d rest' =>
      obtain ⟨j', b'⟩ := d
      have hn0 := hn
      simp only [Memory.wfFrom, Bool.and_eq_true, decide_eq_true_eq, bne_iff_ne] at hn
      obtain ⟨⟨⟨hlo', -⟩, hb'⟩, hr'⟩ := hn
      have hjj : j = j' := by
        rcases Nat.lt_trichotomy j j' with hlt | heq | hgt
        · have := h j
          simp only [Memory.byteAt, if_true] at this
          rw [if_neg (by omega), byteAt_of_lt_wfFrom rest' hr' (by omega)] at this
          exact absurd this hb
        · exact heq
        · have := h j'
          simp only [Memory.byteAt, if_true] at this
          rw [if_neg (by omega), byteAt_of_lt_wfFrom rest hr (by omega)] at this
          exact absurd this.symm hb'
      subst hjj
      have hbb : b = b' := by simpa [Memory.byteAt] using h j
      subst hbb
      have : rest = rest' := by
        refine ih rest' hr hr' fun k => ?_
        by_cases hk : j = k
        · subst hk
          rw [byteAt_of_lt_wfFrom rest hr (by omega), byteAt_of_lt_wfFrom rest' hr' (by omega)]
        · have := h k
          simpa [Memory.byteAt, hk] using this
      rw [this]

end Sys2Proof.Machine
end

