-- ==== Sys2Proof/Laws/State.lean ====
section
/-! SUPPORT. One lemma per field per update of the state, so that no later proof unfolds a record update. -/

namespace Sys2Proof.Machine

@[simp] theorem State.setA_a (s : State) (v : Byte) : (s.setA v).a = v := rfl
@[simp] theorem State.setA_x (s : State) (v : Byte) : (s.setA v).x = s.x := rfl
@[simp] theorem State.setA_y (s : State) (v : Byte) : (s.setA v).y = s.y := rfl
@[simp] theorem State.setA_sp (s : State) (v : Byte) : (s.setA v).sp = s.sp := rfl
@[simp] theorem State.setA_pc (s : State) (v : Byte) : (s.setA v).pc = s.pc := rfl
@[simp] theorem State.setA_p (s : State) (v : Byte) : (s.setA v).p = s.p := rfl
@[simp] theorem State.setA_cyc (s : State) (v : Byte) : (s.setA v).cyc = s.cyc := rfl
@[simp] theorem State.setA_mem (s : State) (v : Byte) : (s.setA v).mem = s.mem := rfl
@[simp] theorem State.setA_cfg (s : State) (v : Byte) : (s.setA v).cfg = s.cfg := rfl

@[simp] theorem State.setX_a (s : State) (v : Byte) : (s.setX v).a = s.a := rfl
@[simp] theorem State.setX_x (s : State) (v : Byte) : (s.setX v).x = v := rfl
@[simp] theorem State.setX_y (s : State) (v : Byte) : (s.setX v).y = s.y := rfl
@[simp] theorem State.setX_sp (s : State) (v : Byte) : (s.setX v).sp = s.sp := rfl
@[simp] theorem State.setX_pc (s : State) (v : Byte) : (s.setX v).pc = s.pc := rfl
@[simp] theorem State.setX_p (s : State) (v : Byte) : (s.setX v).p = s.p := rfl
@[simp] theorem State.setX_cyc (s : State) (v : Byte) : (s.setX v).cyc = s.cyc := rfl
@[simp] theorem State.setX_mem (s : State) (v : Byte) : (s.setX v).mem = s.mem := rfl
@[simp] theorem State.setX_cfg (s : State) (v : Byte) : (s.setX v).cfg = s.cfg := rfl

@[simp] theorem State.setY_a (s : State) (v : Byte) : (s.setY v).a = s.a := rfl
@[simp] theorem State.setY_x (s : State) (v : Byte) : (s.setY v).x = s.x := rfl
@[simp] theorem State.setY_y (s : State) (v : Byte) : (s.setY v).y = v := rfl
@[simp] theorem State.setY_sp (s : State) (v : Byte) : (s.setY v).sp = s.sp := rfl
@[simp] theorem State.setY_pc (s : State) (v : Byte) : (s.setY v).pc = s.pc := rfl
@[simp] theorem State.setY_p (s : State) (v : Byte) : (s.setY v).p = s.p := rfl
@[simp] theorem State.setY_cyc (s : State) (v : Byte) : (s.setY v).cyc = s.cyc := rfl
@[simp] theorem State.setY_mem (s : State) (v : Byte) : (s.setY v).mem = s.mem := rfl
@[simp] theorem State.setY_cfg (s : State) (v : Byte) : (s.setY v).cfg = s.cfg := rfl

@[simp] theorem State.setSp_a (s : State) (v : Byte) : (s.setSp v).a = s.a := rfl
@[simp] theorem State.setSp_x (s : State) (v : Byte) : (s.setSp v).x = s.x := rfl
@[simp] theorem State.setSp_y (s : State) (v : Byte) : (s.setSp v).y = s.y := rfl
@[simp] theorem State.setSp_sp (s : State) (v : Byte) : (s.setSp v).sp = v := rfl
@[simp] theorem State.setSp_pc (s : State) (v : Byte) : (s.setSp v).pc = s.pc := rfl
@[simp] theorem State.setSp_p (s : State) (v : Byte) : (s.setSp v).p = s.p := rfl
@[simp] theorem State.setSp_cyc (s : State) (v : Byte) : (s.setSp v).cyc = s.cyc := rfl
@[simp] theorem State.setSp_mem (s : State) (v : Byte) : (s.setSp v).mem = s.mem := rfl
@[simp] theorem State.setSp_cfg (s : State) (v : Byte) : (s.setSp v).cfg = s.cfg := rfl

@[simp] theorem State.setPc_a (s : State) (v : Addr) : (s.setPc v).a = s.a := rfl
@[simp] theorem State.setPc_x (s : State) (v : Addr) : (s.setPc v).x = s.x := rfl
@[simp] theorem State.setPc_y (s : State) (v : Addr) : (s.setPc v).y = s.y := rfl
@[simp] theorem State.setPc_sp (s : State) (v : Addr) : (s.setPc v).sp = s.sp := rfl
@[simp] theorem State.setPc_pc (s : State) (v : Addr) : (s.setPc v).pc = v := rfl
@[simp] theorem State.setPc_p (s : State) (v : Addr) : (s.setPc v).p = s.p := rfl
@[simp] theorem State.setPc_cyc (s : State) (v : Addr) : (s.setPc v).cyc = s.cyc := rfl
@[simp] theorem State.setPc_mem (s : State) (v : Addr) : (s.setPc v).mem = s.mem := rfl
@[simp] theorem State.setPc_cfg (s : State) (v : Addr) : (s.setPc v).cfg = s.cfg := rfl

@[simp] theorem State.setP_a (s : State) (v : Byte) : (s.setP v).a = s.a := rfl
@[simp] theorem State.setP_x (s : State) (v : Byte) : (s.setP v).x = s.x := rfl
@[simp] theorem State.setP_y (s : State) (v : Byte) : (s.setP v).y = s.y := rfl
@[simp] theorem State.setP_sp (s : State) (v : Byte) : (s.setP v).sp = s.sp := rfl
@[simp] theorem State.setP_pc (s : State) (v : Byte) : (s.setP v).pc = s.pc := rfl
@[simp] theorem State.setP_p (s : State) (v : Byte) : (s.setP v).p = v := rfl
@[simp] theorem State.setP_cyc (s : State) (v : Byte) : (s.setP v).cyc = s.cyc := rfl
@[simp] theorem State.setP_mem (s : State) (v : Byte) : (s.setP v).mem = s.mem := rfl
@[simp] theorem State.setP_cfg (s : State) (v : Byte) : (s.setP v).cfg = s.cfg := rfl

@[simp] theorem State.addCyc_a (s : State) (v : Nat) : (s.addCyc v).a = s.a := rfl
@[simp] theorem State.addCyc_x (s : State) (v : Nat) : (s.addCyc v).x = s.x := rfl
@[simp] theorem State.addCyc_y (s : State) (v : Nat) : (s.addCyc v).y = s.y := rfl
@[simp] theorem State.addCyc_sp (s : State) (v : Nat) : (s.addCyc v).sp = s.sp := rfl
@[simp] theorem State.addCyc_pc (s : State) (v : Nat) : (s.addCyc v).pc = s.pc := rfl
@[simp] theorem State.addCyc_p (s : State) (v : Nat) : (s.addCyc v).p = s.p := rfl
@[simp] theorem State.addCyc_cyc (s : State) (v : Nat) : (s.addCyc v).cyc = s.cyc + v := rfl
@[simp] theorem State.addCyc_mem (s : State) (v : Nat) : (s.addCyc v).mem = s.mem := rfl
@[simp] theorem State.addCyc_cfg (s : State) (v : Nat) : (s.addCyc v).cfg = s.cfg := rfl

@[simp] theorem State.setMem_a (s : State) (v : Memory) : (s.setMem v).a = s.a := rfl
@[simp] theorem State.setMem_x (s : State) (v : Memory) : (s.setMem v).x = s.x := rfl
@[simp] theorem State.setMem_y (s : State) (v : Memory) : (s.setMem v).y = s.y := rfl
@[simp] theorem State.setMem_sp (s : State) (v : Memory) : (s.setMem v).sp = s.sp := rfl
@[simp] theorem State.setMem_pc (s : State) (v : Memory) : (s.setMem v).pc = s.pc := rfl
@[simp] theorem State.setMem_p (s : State) (v : Memory) : (s.setMem v).p = s.p := rfl
@[simp] theorem State.setMem_cyc (s : State) (v : Memory) : (s.setMem v).cyc = s.cyc := rfl
@[simp] theorem State.setMem_mem (s : State) (v : Memory) : (s.setMem v).mem = v := rfl
@[simp] theorem State.setMem_cfg (s : State) (v : Memory) : (s.setMem v).cfg = s.cfg := rfl

@[simp] theorem State.resetTo_a (s : State) (init : ResetInit) : (s.resetTo init).a = init.a := rfl
@[simp] theorem State.resetTo_x (s : State) (init : ResetInit) : (s.resetTo init).x = init.x := rfl
@[simp] theorem State.resetTo_y (s : State) (init : ResetInit) : (s.resetTo init).y = init.y := rfl
@[simp] theorem State.resetTo_sp (s : State) (init : ResetInit) : (s.resetTo init).sp = init.sp := rfl
@[simp] theorem State.resetTo_pc (s : State) (init : ResetInit) : (s.resetTo init).pc = init.pc := rfl
@[simp] theorem State.resetTo_p (s : State) (init : ResetInit) : (s.resetTo init).p = resetStatus init.p := rfl
@[simp] theorem State.resetTo_cyc (s : State) (init : ResetInit) : (s.resetTo init).cyc = init.cyc := rfl
@[simp] theorem State.resetTo_mem (s : State) (init : ResetInit) : (s.resetTo init).mem = s.mem := rfl
@[simp] theorem State.resetTo_cfg (s : State) (init : ResetInit) : (s.resetTo init).cfg = s.cfg := rfl

/-- A read depends on memory and the address map alone. -/
theorem State.read_congr {s t : State} (hm : t.mem = s.mem) (hc : t.cfg = s.cfg) (a : Addr) : t.read a = s.read a := by
  simp [State.read, hm, hc]

@[simp] theorem State.read_setA (s : State) (v : Byte) (a : Addr) : (s.setA v).read a = s.read a := rfl
@[simp] theorem State.read_setX (s : State) (v : Byte) (a : Addr) : (s.setX v).read a = s.read a := rfl
@[simp] theorem State.read_setY (s : State) (v : Byte) (a : Addr) : (s.setY v).read a = s.read a := rfl
@[simp] theorem State.read_setSp (s : State) (v : Byte) (a : Addr) : (s.setSp v).read a = s.read a := rfl
@[simp] theorem State.read_setPc (s : State) (v : Addr) (a : Addr) : (s.setPc v).read a = s.read a := rfl
@[simp] theorem State.read_setP (s : State) (v : Byte) (a : Addr) : (s.setP v).read a = s.read a := rfl
@[simp] theorem State.read_addCyc (s : State) (v : Nat) (a : Addr) : (s.addCyc v).read a = s.read a := rfl

end Sys2Proof.Machine
end

