-- ==== Sys2Proof/Laws/Ops.lean ====
section
/-! SUPPORT. One spec lemma per shared operation of Machine/Ops.lean: what it can do, and what it leaves alone. -/

namespace Sys2Proof.Machine

/-! ### The bus -/

@[simp] theorem State.write_a (s : State) (e : Addr) (v : Byte) : (s.write e v).a = s.a := rfl
@[simp] theorem State.write_x (s : State) (e : Addr) (v : Byte) : (s.write e v).x = s.x := rfl
@[simp] theorem State.write_y (s : State) (e : Addr) (v : Byte) : (s.write e v).y = s.y := rfl
@[simp] theorem State.write_sp (s : State) (e : Addr) (v : Byte) : (s.write e v).sp = s.sp := rfl
@[simp] theorem State.write_pc (s : State) (e : Addr) (v : Byte) : (s.write e v).pc = s.pc := rfl
@[simp] theorem State.write_p (s : State) (e : Addr) (v : Byte) : (s.write e v).p = s.p := rfl
@[simp] theorem State.write_cyc (s : State) (e : Addr) (v : Byte) : (s.write e v).cyc = s.cyc := rfl
@[simp] theorem State.write_cfg (s : State) (e : Addr) (v : Byte) : (s.write e v).cfg = s.cfg := rfl
@[simp] theorem State.write_mem (s : State) (e : Addr) (v : Byte) :
    (s.write e v).mem = s.mem.writeAt s.cfg.memoryMap e v := rfl

/-- A write to a memory of cells leaves every address of another cell alone (R51). -/
theorem State.read_write_other (s : State) {e a : Addr} (v : Byte) (hc : hasCells s.cfg.memoryMap = true)
    (h : cellOf s.cfg.memoryMap a ≠ cellOf s.cfg.memoryMap e) : (s.write e v).read a = s.read a := by
  simp only [State.read, State.write_mem, State.write_cfg, readAt_of_hasCells hc, writeAt_of_hasCells hc]
  split
  · exact byteAt_store_other s.mem v h
  · rfl

/-- A stored write is read back at every alias of its cell (R51, R58, R59). -/
theorem State.read_write_same (s : State) {e a : Addr} (v : Byte) (hc : hasCells s.cfg.memoryMap = true)
    (hw : s.mem.wf s.cfg.memoryMap = true) (hs : storable s.cfg.memoryMap e = true)
    (h : cellOf s.cfg.memoryMap a = cellOf s.cfg.memoryMap e) : (s.write e v).read a = v := by
  simp only [State.read, State.write_mem, State.write_cfg, readAt_of_hasCells hc, writeAt_of_hasCells hc, if_pos hs, h]
  exact byteAt_store_same s.mem hw _ v

/-- A write to Program ROM changes nothing (R61). -/
theorem State.write_discarded (s : State) {e : Addr} (v : Byte) (hc : hasCells s.cfg.memoryMap = true)
    (h : storable s.cfg.memoryMap e = false) : s.write e v = s := by
  unfold State.write
  rw [writeAt_of_hasCells hc, h]
  rfl

/-- A write keeps memory in its canonical form. -/
theorem State.wf_write (s : State) (e : Addr) (v : Byte) (h : s.mem.wf s.cfg.memoryMap = true) :
    (s.write e v).mem.wf s.cfg.memoryMap = true := wf_writeAt s.mem h e v

/-- The host's raw access keeps memory in its canonical form. -/
theorem State.wf_poke (s : State) (e : Addr) (v : Byte) (h : s.mem.wf s.cfg.memoryMap = true) :
    (s.poke e v).mem.wf s.cfg.memoryMap = true := wf_store s.mem h e v

/-- Writing P and writing memory do not interfere. -/
theorem State.write_setP (s : State) (p : Byte) (e : Addr) (v : Byte) : (s.setP p).write e v = (s.write e v).setP p := rfl

/-! ### The stack -/

@[simp] theorem State.push_a (s : State) (v : Byte) : (s.push v).a = s.a := by simp [State.push]
@[simp] theorem State.push_x (s : State) (v : Byte) : (s.push v).x = s.x := by simp [State.push]
@[simp] theorem State.push_y (s : State) (v : Byte) : (s.push v).y = s.y := by simp [State.push]
@[simp] theorem State.push_sp (s : State) (v : Byte) : (s.push v).sp = s.sp - 1 := by simp [State.push]
@[simp] theorem State.push_pc (s : State) (v : Byte) : (s.push v).pc = s.pc := by simp [State.push]
@[simp] theorem State.push_p (s : State) (v : Byte) : (s.push v).p = s.p := by simp [State.push]
@[simp] theorem State.push_cyc (s : State) (v : Byte) : (s.push v).cyc = s.cyc := by simp [State.push]
@[simp] theorem State.push_cfg (s : State) (v : Byte) : (s.push v).cfg = s.cfg := by simp [State.push]
@[simp] theorem State.push_mem (s : State) (v : Byte) : (s.push v).mem = (s.write (stackAddr s.sp) v).mem := rfl

/-- `$0100 + SP` as a number (R21). -/
theorem stackAddr_toNat (sp : Byte) : (stackAddr sp).toNat = 256 + sp.toNat := by
  have h := sp.isLt
  rw [stackAddr, hiLo, BitVec.toNat_append, ← Nat.shiftLeft_add_eq_or_of_lt h]
  rfl

/-- A push is always stored: the stack page lies in RAM on the reference platform (R57, R63). -/
theorem storable_stackAddr (map : MemoryMap) (sp : Byte) : storable map (stackAddr sp) = true := by
  have := sp.isLt
  cases map
  · simp [storable, stackAddr_toNat]; omega
  · rfl
  · rfl

/-- The stack page is not an alias of itself: each stack pointer has its own cell. -/
theorem cellOf_stackAddr (map : MemoryMap) (sp : Byte) : cellOf map (stackAddr sp) = 256 + sp.toNat := by
  have h := sp.isLt
  cases map
  · simp only [cellOf, stackAddr_toNat]
    rw [if_pos (by omega), Nat.mod_eq_of_lt (by omega)]
  · simp only [cellOf, stackAddr_toNat]
  · simp only [cellOf, stackAddr_toNat]

theorem State.read_push_same (s : State) (v : Byte) (hc : hasCells s.cfg.memoryMap = true)
    (hw : s.mem.wf s.cfg.memoryMap = true) : (s.push v).read (stackAddr s.sp) = v :=
  State.read_write_same s v hc hw (storable_stackAddr _ _) rfl

theorem State.read_push_other (s : State) {a : Addr} (v : Byte) (hc : hasCells s.cfg.memoryMap = true)
    (h : cellOf s.cfg.memoryMap a ≠ cellOf s.cfg.memoryMap (stackAddr s.sp)) : (s.push v).read a = s.read a :=
  State.read_write_other s v hc h

/-- A push leaves every other stack cell alone. -/
theorem State.read_push_stack (s : State) {k : Byte} (v : Byte) (hc : hasCells s.cfg.memoryMap = true) (h : k ≠ s.sp) :
    (s.push v).read (stackAddr k) = s.read (stackAddr k) :=
  State.read_push_other s v hc (by
    rw [cellOf_stackAddr, cellOf_stackAddr]
    have := mt BitVec.toNat_inj.mp h
    omega)

/-- A push leaves everything above the mirrors alone, the BRK vector among it. -/
theorem State.read_push_high (s : State) {a : Addr} (v : Byte) (hc : hasCells s.cfg.memoryMap = true)
    (h : 0x4000 ≤ a.toNat) : (s.push v).read a = s.read a :=
  State.read_push_other s v hc (by
    have := s.sp.isLt
    rw [cellOf_stackAddr]
    cases s.cfg.memoryMap <;> simp only [cellOf]
    · rw [if_neg (by omega), if_neg (by omega)]
      omega
    · omega
    · omega)

theorem State.wf_push (s : State) (v : Byte) (h : s.mem.wf s.cfg.memoryMap = true) :
    (s.push v).mem.wf s.cfg.memoryMap = true := State.wf_write s _ v h

/-! ### Overflow checks and the end of a step -/

/-- What `checked` can do: go on where the sum fits, else report it. -/
theorem checked_eq (s : State) (sum : Nat) (k : Result) :
    checked s sum k = if s.cfg.addrOverflow = .fault ∧ 0xFFFF < sum then .fault (.unmappedAddress sum) else k := by
  unfold checked
  cases h : s.cfg.addrOverflow <;> simp

theorem checked_of_fits {s : State} {sum : Nat} (k : Result) (h : fits s sum) : checked s sum k = k := by
  rw [checked_eq, if_neg]
  rintro ⟨hf, hlt⟩
  have := h hf
  omega

theorem checked_of_wrap {s : State} {sum : Nat} (k : Result) (h : s.cfg.addrOverflow = .wrap) : checked s sum k = k :=
  checked_of_fits k (fun hf => by simp [h] at hf)

/-- If a checked result goes on, the sum fits and the result is the unchecked one. -/
theorem checked_eq_next {s t : State} {sum : Nat} {k : Result} (h : checked s sum k = .next t) : k = .next t ∧ fits s sum := by
  rw [checked_eq] at h
  split at h
  · cases h
  · next hn => exact ⟨h, fun hf => by have := not_and.mp hn hf; omega⟩

/-- What `advance` can do, if it goes on. -/
theorem advance_eq_next {s t : State} {bytes cycles : Nat} (h : advance s bytes cycles = .next t) :
    t = (s.setPc (s.pc + BitVec.ofNat 16 bytes)).addCyc cycles ∧ fits s (s.pc.toNat + bytes) := by
  obtain ⟨h, hf⟩ := checked_eq_next h
  cases h
  exact ⟨rfl, hf⟩

theorem advance_of_fits {s : State} {bytes cycles : Nat} (h : fits s (s.pc.toNat + bytes)) :
    advance s bytes cycles = .next ((s.setPc (s.pc + BitVec.ofNat 16 bytes)).addCyc cycles) :=
  checked_of_fits _ h

/-! ### Base cycles -/

/-- The base cycles depend on PC, memory and the parameters alone. -/
theorem baseCycles_congr {s t : State} (d : Descriptor) (hp : t.pc = s.pc) (hm : t.mem = s.mem) (hc : t.cfg = s.cfg) :
    baseCycles d t = baseCycles d s := by
  simp only [baseCycles, State.read, hp, hm, hc]

/-- A fetched instruction costs what its row says (R98). -/
theorem baseCycles_of_describe {s : State} {d : Descriptor} {r : TableRow} (h : describe s.cfg.table (s.read s.pc) = some r)
    (hmn : r.mnemonic = d.mnemonic) (hmode : r.mode = d.operand.mode) : baseCycles d s = r.base := by
  simp [baseCycles, h, Option.filter, hmn, hmode]

/-! ### The trap -/

/-- Everything a trap entry changes (R317): the memory of the three pushes, SP, I, and PC from the vector as it reads after them
(R71). -/
theorem enterTrap_eq (s : State) (ret : Addr) :
    enterTrap s ret =
      let m := ((s.push (page ret)).push (lowByte ret)).push (pushedStatus s.p)
      { s with mem := m.mem, sp := s.sp - 3, p := setFlag .i true s.p, pc := hiLo (m.read 0xFFFF) (m.read 0xFFFE) } := by
  have h : s.sp - 3 = s.sp - 1 - 1 - 1 := by bv_omega
  rw [h]
  rfl

/-- Everything a trap return changes (R318). -/
theorem leaveTrap_eq (s : State) :
    leaveTrap s = { s with
      sp := s.sp + 3, p := rtiStatus (s.read (stackAddr (s.sp + 1))),
      pc := hiLo (s.read (stackAddr (s.sp + 3))) (s.read (stackAddr (s.sp + 2))) } := by
  have h2 : s.sp + 2 = s.sp + 1 + 1 := by bv_omega
  have h3 : s.sp + 3 = s.sp + 1 + 1 + 1 := by bv_omega
  rw [h2, h3]
  rfl

end Sys2Proof.Machine
end

