-- ==== Sys2Proof/Laws/Effects.lean ====
section
/-! SUPPORT. What each shared effect of the instruction files writes and what it leaves, one lemma per field. -/

namespace Sys2Proof.Machine

@[simp] theorem addWithCarry_a (v : Byte) (s : State) : (addWithCarry v s).a = BitVec.ofNat 8 (addSum s.a v s.p) := rfl
@[simp] theorem addWithCarry_x (v : Byte) (s : State) : (addWithCarry v s).x = s.x := rfl
@[simp] theorem addWithCarry_y (v : Byte) (s : State) : (addWithCarry v s).y = s.y := rfl
@[simp] theorem addWithCarry_sp (v : Byte) (s : State) : (addWithCarry v s).sp = s.sp := rfl
@[simp] theorem addWithCarry_pc (v : Byte) (s : State) : (addWithCarry v s).pc = s.pc := rfl
@[simp] theorem addWithCarry_p (v : Byte) (s : State) : (addWithCarry v s).p = addFlags s.a v s.p := rfl
@[simp] theorem addWithCarry_cyc (v : Byte) (s : State) : (addWithCarry v s).cyc = s.cyc := rfl
@[simp] theorem addWithCarry_mem (v : Byte) (s : State) : (addWithCarry v s).mem = s.mem := rfl
@[simp] theorem addWithCarry_cfg (v : Byte) (s : State) : (addWithCarry v s).cfg = s.cfg := rfl

@[simp] theorem subtractWithBorrow_a (v : Byte) (s : State) : (subtractWithBorrow v s).a = BitVec.ofInt 8 (subDiff s.a v s.p) := rfl
@[simp] theorem subtractWithBorrow_x (v : Byte) (s : State) : (subtractWithBorrow v s).x = s.x := rfl
@[simp] theorem subtractWithBorrow_y (v : Byte) (s : State) : (subtractWithBorrow v s).y = s.y := rfl
@[simp] theorem subtractWithBorrow_sp (v : Byte) (s : State) : (subtractWithBorrow v s).sp = s.sp := rfl
@[simp] theorem subtractWithBorrow_pc (v : Byte) (s : State) : (subtractWithBorrow v s).pc = s.pc := rfl
@[simp] theorem subtractWithBorrow_p (v : Byte) (s : State) : (subtractWithBorrow v s).p = subFlags s.a v s.p := rfl
@[simp] theorem subtractWithBorrow_cyc (v : Byte) (s : State) : (subtractWithBorrow v s).cyc = s.cyc := rfl
@[simp] theorem subtractWithBorrow_mem (v : Byte) (s : State) : (subtractWithBorrow v s).mem = s.mem := rfl
@[simp] theorem subtractWithBorrow_cfg (v : Byte) (s : State) : (subtractWithBorrow v s).cfg = s.cfg := rfl

@[simp] theorem compareA_a (v : Byte) (s : State) : (compareA v s).a = s.a := rfl
@[simp] theorem compareA_x (v : Byte) (s : State) : (compareA v s).x = s.x := rfl
@[simp] theorem compareA_y (v : Byte) (s : State) : (compareA v s).y = s.y := rfl
@[simp] theorem compareA_sp (v : Byte) (s : State) : (compareA v s).sp = s.sp := rfl
@[simp] theorem compareA_pc (v : Byte) (s : State) : (compareA v s).pc = s.pc := rfl
@[simp] theorem compareA_p (v : Byte) (s : State) : (compareA v s).p = compareFlags s.a v s.p := rfl
@[simp] theorem compareA_cyc (v : Byte) (s : State) : (compareA v s).cyc = s.cyc := rfl
@[simp] theorem compareA_mem (v : Byte) (s : State) : (compareA v s).mem = s.mem := rfl
@[simp] theorem compareA_cfg (v : Byte) (s : State) : (compareA v s).cfg = s.cfg := rfl

@[simp] theorem compareX_a (v : Byte) (s : State) : (compareX v s).a = s.a := rfl
@[simp] theorem compareX_x (v : Byte) (s : State) : (compareX v s).x = s.x := rfl
@[simp] theorem compareX_y (v : Byte) (s : State) : (compareX v s).y = s.y := rfl
@[simp] theorem compareX_sp (v : Byte) (s : State) : (compareX v s).sp = s.sp := rfl
@[simp] theorem compareX_pc (v : Byte) (s : State) : (compareX v s).pc = s.pc := rfl
@[simp] theorem compareX_p (v : Byte) (s : State) : (compareX v s).p = compareFlags s.x v s.p := rfl
@[simp] theorem compareX_cyc (v : Byte) (s : State) : (compareX v s).cyc = s.cyc := rfl
@[simp] theorem compareX_mem (v : Byte) (s : State) : (compareX v s).mem = s.mem := rfl
@[simp] theorem compareX_cfg (v : Byte) (s : State) : (compareX v s).cfg = s.cfg := rfl

@[simp] theorem compareY_a (v : Byte) (s : State) : (compareY v s).a = s.a := rfl
@[simp] theorem compareY_x (v : Byte) (s : State) : (compareY v s).x = s.x := rfl
@[simp] theorem compareY_y (v : Byte) (s : State) : (compareY v s).y = s.y := rfl
@[simp] theorem compareY_sp (v : Byte) (s : State) : (compareY v s).sp = s.sp := rfl
@[simp] theorem compareY_pc (v : Byte) (s : State) : (compareY v s).pc = s.pc := rfl
@[simp] theorem compareY_p (v : Byte) (s : State) : (compareY v s).p = compareFlags s.y v s.p := rfl
@[simp] theorem compareY_cyc (v : Byte) (s : State) : (compareY v s).cyc = s.cyc := rfl
@[simp] theorem compareY_mem (v : Byte) (s : State) : (compareY v s).mem = s.mem := rfl
@[simp] theorem compareY_cfg (v : Byte) (s : State) : (compareY v s).cfg = s.cfg := rfl

@[simp] theorem loadA_a (v : Byte) (s : State) : (loadA v s).a = v := rfl
@[simp] theorem loadA_x (v : Byte) (s : State) : (loadA v s).x = s.x := rfl
@[simp] theorem loadA_y (v : Byte) (s : State) : (loadA v s).y = s.y := rfl
@[simp] theorem loadA_sp (v : Byte) (s : State) : (loadA v s).sp = s.sp := rfl
@[simp] theorem loadA_pc (v : Byte) (s : State) : (loadA v s).pc = s.pc := rfl
@[simp] theorem loadA_p (v : Byte) (s : State) : (loadA v s).p = setZN v s.p := rfl
@[simp] theorem loadA_cyc (v : Byte) (s : State) : (loadA v s).cyc = s.cyc := rfl
@[simp] theorem loadA_mem (v : Byte) (s : State) : (loadA v s).mem = s.mem := rfl
@[simp] theorem loadA_cfg (v : Byte) (s : State) : (loadA v s).cfg = s.cfg := rfl

@[simp] theorem loadX_a (v : Byte) (s : State) : (loadX v s).a = s.a := rfl
@[simp] theorem loadX_x (v : Byte) (s : State) : (loadX v s).x = v := rfl
@[simp] theorem loadX_y (v : Byte) (s : State) : (loadX v s).y = s.y := rfl
@[simp] theorem loadX_sp (v : Byte) (s : State) : (loadX v s).sp = s.sp := rfl
@[simp] theorem loadX_pc (v : Byte) (s : State) : (loadX v s).pc = s.pc := rfl
@[simp] theorem loadX_p (v : Byte) (s : State) : (loadX v s).p = setZN v s.p := rfl
@[simp] theorem loadX_cyc (v : Byte) (s : State) : (loadX v s).cyc = s.cyc := rfl
@[simp] theorem loadX_mem (v : Byte) (s : State) : (loadX v s).mem = s.mem := rfl
@[simp] theorem loadX_cfg (v : Byte) (s : State) : (loadX v s).cfg = s.cfg := rfl

@[simp] theorem loadY_a (v : Byte) (s : State) : (loadY v s).a = s.a := rfl
@[simp] theorem loadY_x (v : Byte) (s : State) : (loadY v s).x = s.x := rfl
@[simp] theorem loadY_y (v : Byte) (s : State) : (loadY v s).y = v := rfl
@[simp] theorem loadY_sp (v : Byte) (s : State) : (loadY v s).sp = s.sp := rfl
@[simp] theorem loadY_pc (v : Byte) (s : State) : (loadY v s).pc = s.pc := rfl
@[simp] theorem loadY_p (v : Byte) (s : State) : (loadY v s).p = setZN v s.p := rfl
@[simp] theorem loadY_cyc (v : Byte) (s : State) : (loadY v s).cyc = s.cyc := rfl
@[simp] theorem loadY_mem (v : Byte) (s : State) : (loadY v s).mem = s.mem := rfl
@[simp] theorem loadY_cfg (v : Byte) (s : State) : (loadY v s).cfg = s.cfg := rfl

@[simp] theorem andA_a (v : Byte) (s : State) : (andA v s).a = s.a &&& v := rfl
@[simp] theorem andA_x (v : Byte) (s : State) : (andA v s).x = s.x := rfl
@[simp] theorem andA_y (v : Byte) (s : State) : (andA v s).y = s.y := rfl
@[simp] theorem andA_sp (v : Byte) (s : State) : (andA v s).sp = s.sp := rfl
@[simp] theorem andA_pc (v : Byte) (s : State) : (andA v s).pc = s.pc := rfl
@[simp] theorem andA_p (v : Byte) (s : State) : (andA v s).p = setZN (s.a &&& v) s.p := rfl
@[simp] theorem andA_cyc (v : Byte) (s : State) : (andA v s).cyc = s.cyc := rfl
@[simp] theorem andA_mem (v : Byte) (s : State) : (andA v s).mem = s.mem := rfl
@[simp] theorem andA_cfg (v : Byte) (s : State) : (andA v s).cfg = s.cfg := rfl

@[simp] theorem orA_a (v : Byte) (s : State) : (orA v s).a = s.a ||| v := rfl
@[simp] theorem orA_x (v : Byte) (s : State) : (orA v s).x = s.x := rfl
@[simp] theorem orA_y (v : Byte) (s : State) : (orA v s).y = s.y := rfl
@[simp] theorem orA_sp (v : Byte) (s : State) : (orA v s).sp = s.sp := rfl
@[simp] theorem orA_pc (v : Byte) (s : State) : (orA v s).pc = s.pc := rfl
@[simp] theorem orA_p (v : Byte) (s : State) : (orA v s).p = setZN (s.a ||| v) s.p := rfl
@[simp] theorem orA_cyc (v : Byte) (s : State) : (orA v s).cyc = s.cyc := rfl
@[simp] theorem orA_mem (v : Byte) (s : State) : (orA v s).mem = s.mem := rfl
@[simp] theorem orA_cfg (v : Byte) (s : State) : (orA v s).cfg = s.cfg := rfl

@[simp] theorem eorA_a (v : Byte) (s : State) : (eorA v s).a = s.a ^^^ v := rfl
@[simp] theorem eorA_x (v : Byte) (s : State) : (eorA v s).x = s.x := rfl
@[simp] theorem eorA_y (v : Byte) (s : State) : (eorA v s).y = s.y := rfl
@[simp] theorem eorA_sp (v : Byte) (s : State) : (eorA v s).sp = s.sp := rfl
@[simp] theorem eorA_pc (v : Byte) (s : State) : (eorA v s).pc = s.pc := rfl
@[simp] theorem eorA_p (v : Byte) (s : State) : (eorA v s).p = setZN (s.a ^^^ v) s.p := rfl
@[simp] theorem eorA_cyc (v : Byte) (s : State) : (eorA v s).cyc = s.cyc := rfl
@[simp] theorem eorA_mem (v : Byte) (s : State) : (eorA v s).mem = s.mem := rfl
@[simp] theorem eorA_cfg (v : Byte) (s : State) : (eorA v s).cfg = s.cfg := rfl

@[simp] theorem testBits_a (v : Byte) (s : State) : (testBits v s).a = s.a := rfl
@[simp] theorem testBits_x (v : Byte) (s : State) : (testBits v s).x = s.x := rfl
@[simp] theorem testBits_y (v : Byte) (s : State) : (testBits v s).y = s.y := rfl
@[simp] theorem testBits_sp (v : Byte) (s : State) : (testBits v s).sp = s.sp := rfl
@[simp] theorem testBits_pc (v : Byte) (s : State) : (testBits v s).pc = s.pc := rfl
@[simp] theorem testBits_p (v : Byte) (s : State) : (testBits v s).p = bitFlags s.a v s.p := rfl
@[simp] theorem testBits_cyc (v : Byte) (s : State) : (testBits v s).cyc = s.cyc := rfl
@[simp] theorem testBits_mem (v : Byte) (s : State) : (testBits v s).mem = s.mem := rfl
@[simp] theorem testBits_cfg (v : Byte) (s : State) : (testBits v s).cfg = s.cfg := rfl

@[simp] theorem writeFlag_a (f : Flag) (b : Bool) (s : State) : (writeFlag f b s).a = s.a := rfl
@[simp] theorem writeFlag_x (f : Flag) (b : Bool) (s : State) : (writeFlag f b s).x = s.x := rfl
@[simp] theorem writeFlag_y (f : Flag) (b : Bool) (s : State) : (writeFlag f b s).y = s.y := rfl
@[simp] theorem writeFlag_sp (f : Flag) (b : Bool) (s : State) : (writeFlag f b s).sp = s.sp := rfl
@[simp] theorem writeFlag_pc (f : Flag) (b : Bool) (s : State) : (writeFlag f b s).pc = s.pc := rfl
@[simp] theorem writeFlag_p (f : Flag) (b : Bool) (s : State) : (writeFlag f b s).p = setFlag f b s.p := rfl
@[simp] theorem writeFlag_cyc (f : Flag) (b : Bool) (s : State) : (writeFlag f b s).cyc = s.cyc := rfl
@[simp] theorem writeFlag_mem (f : Flag) (b : Bool) (s : State) : (writeFlag f b s).mem = s.mem := rfl
@[simp] theorem writeFlag_cfg (f : Flag) (b : Bool) (s : State) : (writeFlag f b s).cfg = s.cfg := rfl

@[simp] theorem pullA_a (s : State) : (pullA s).a = s.pullByte := rfl
@[simp] theorem pullA_x (s : State) : (pullA s).x = s.x := rfl
@[simp] theorem pullA_y (s : State) : (pullA s).y = s.y := rfl
@[simp] theorem pullA_sp (s : State) : (pullA s).sp = s.sp + 1 := rfl
@[simp] theorem pullA_pc (s : State) : (pullA s).pc = s.pc := rfl
@[simp] theorem pullA_p (s : State) : (pullA s).p = setZN s.pullByte s.p := rfl
@[simp] theorem pullA_cyc (s : State) : (pullA s).cyc = s.cyc := rfl
@[simp] theorem pullA_mem (s : State) : (pullA s).mem = s.mem := rfl
@[simp] theorem pullA_cfg (s : State) : (pullA s).cfg = s.cfg := rfl

@[simp] theorem pullP_a (s : State) : (pullP s).a = s.a := rfl
@[simp] theorem pullP_x (s : State) : (pullP s).x = s.x := rfl
@[simp] theorem pullP_y (s : State) : (pullP s).y = s.y := rfl
@[simp] theorem pullP_sp (s : State) : (pullP s).sp = s.sp + 1 := rfl
@[simp] theorem pullP_pc (s : State) : (pullP s).pc = s.pc := rfl
@[simp] theorem pullP_p (s : State) : (pullP s).p = plpStatus s.pullByte := rfl
@[simp] theorem pullP_cyc (s : State) : (pullP s).cyc = s.cyc := rfl
@[simp] theorem pullP_mem (s : State) : (pullP s).mem = s.mem := rfl
@[simp] theorem pullP_cfg (s : State) : (pullP s).cfg = s.cfg := rfl

@[simp] theorem State.pulled_a (s : State) : s.pulled.a = s.a := rfl
@[simp] theorem State.pulled_x (s : State) : s.pulled.x = s.x := rfl
@[simp] theorem State.pulled_y (s : State) : s.pulled.y = s.y := rfl
@[simp] theorem State.pulled_sp (s : State) : s.pulled.sp = s.sp + 1 := rfl
@[simp] theorem State.pulled_pc (s : State) : s.pulled.pc = s.pc := rfl
@[simp] theorem State.pulled_p (s : State) : s.pulled.p = s.p := rfl
@[simp] theorem State.pulled_cyc (s : State) : s.pulled.cyc = s.cyc := rfl
@[simp] theorem State.pulled_mem (s : State) : s.pulled.mem = s.mem := rfl
@[simp] theorem State.pulled_cfg (s : State) : s.pulled.cfg = s.cfg := rfl

/-- PHA is a push of A, PHP one of the status with Break forced on (R222, R223). -/
theorem pushA_eq (s : State) : pushA s = s.push s.a := rfl

theorem pushP_eq (s : State) : pushP s = s.push (pushedStatus s.p) := rfl

end Sys2Proof.Machine
end

