-- ==== Sys2Proof/Laws/Fetch.lean ====
section
/-! SUPPORT. What the fetch of a step can do, and the two things that `step` then does (30_encoding.md R98, 40_addressing_modes.md
R120). -/

namespace Sys2Proof.Machine

/-- An illegal opcode is reported (R311). -/
theorem fetch_of_illegal {s : State} (h : describe s.cfg.table (s.read s.pc) = none) :
    fetch s = .error (.unsupportedOpcode (s.read s.pc)) := by
  simp [fetch, h]

/-- An operand address past the top is reported, with `ADDR_OVERFLOW = fault` (R316). -/
theorem fetch_of_overflow {s : State} {r : TableRow} {sum : Nat} (h : describe s.cfg.table (s.read s.pc) = some r)
    (hf : s.cfg.addrOverflow = .fault) (ho : fetchOverflow s r = some sum) : fetch s = .error (.unmappedAddress sum) := by
  simp [fetch, h, hf, ho]

/-- An operand address overflows exactly where the last one does, and the first to do so is `$10000`. -/
theorem fetchOverflow_eq (s : State) {r : TableRow} (hb : r.bytes ≤ 3) :
    fetchOverflow s r = if 0xFFFF < s.pc.toNat + (r.bytes - 1) then some 0x10000 else none := by
  have := s.pc.isLt
  unfold fetchOverflow
  split
  · rw [if_pos (by omega)]
    congr 1
    omega
  · split
    · rw [if_pos (by omega)]
      congr 1
      omega
    · rw [if_neg (by omega)]

/-- Otherwise the row's instruction is fetched, with its operand bytes. -/
theorem fetch_of_describe {s : State} {r : TableRow} (h : describe s.cfg.table (s.read s.pc) = some r)
    (hf : fits s (s.pc.toNat + (r.bytes - 1))) :
    ∃ i, fetch s = .ok i ∧ i.desc = ⟨r.mnemonic, Operand.ofBytes r.mode (operandByte s r 1) (operandByte s r 2)⟩ ∧
      i.desc.bytes = r.bytes := by
  obtain ⟨-, -, hw⟩ := describe_eq_some h
  obtain ⟨i, hi, hd, hb⟩ := row_instr hw (operandByte s r 1) (operandByte s r 2)
  refine ⟨i, ?_, hd, hb⟩
  have hb3 : r.bytes ≤ 3 := by
    rw [(wellFormed_row hw).2.1]
    rcases length_cases r.mode with h | h | h <;> omega
  cases ha : s.cfg.addrOverflow with
  | wrap => simp [fetch, h, ha, hi]
  | fault =>
    have := hf ha
    simp [fetch, h, ha, hi, fetchOverflow_eq s hb3, Nat.not_lt.mpr this]

/-- A step runs what it fetches. -/
theorem step_of_fetch {s : State} {i : Instr} (h : fetch s = .ok i) : step s = exec i s := by
  simp [step, h]

theorem step_of_error {s : State} {f : Fault} (h : fetch s = .error f) : step s = .fault f := by
  simp [step, h]

end Sys2Proof.Machine
end

