-- ==== Sys2Proof/Laws/Operands.lean ====
section
/-! SUPPORT. One spec lemma per addressing path: what it answers where the sums fit, and what a next state of it is
(40_addressing_modes.md R134 to R136, 43_control_transfer.md R194). -/

namespace Sys2Proof.Machine

/-- The two parts of an effective address fit where their sum does. -/
theorem readMem_of_fits {d : Descriptor} {m : MemOperand} {f : Byte → State → State} {s : State}
    (hpc : (f (s.read (effAddr m s)) s).pc = s.pc) (hcfg : (f (s.read (effAddr m s)) s).cfg = s.cfg)
    (hm : fits s (addrSum m s)) (hn : fits s (s.pc.toNat + d.bytes)) :
    readMem d m f s = .next (((f (s.read (effAddr m s)) s).setPc (s.pc + BitVec.ofNat 16 d.bytes)).addCyc
      (baseCycles d s + readPenalty d m s)) := by
  unfold readMem
  rw [checked_of_fits _ hm, advance_of_fits, hpc]
  unfold fits
  rw [hpc, hcfg]
  exact hn

theorem readImm_of_fits {d : Descriptor} {v : Byte} {f : Byte → State → State} {s : State}
    (hpc : (f v s).pc = s.pc) (hcfg : (f v s).cfg = s.cfg) (hn : fits s (s.pc.toNat + d.bytes)) :
    readImm d v f s = .next (((f v s).setPc (s.pc + BitVec.ofNat 16 d.bytes)).addCyc (baseCycles d s)) := by
  unfold readImm
  rw [advance_of_fits, hpc]
  unfold fits
  rw [hpc, hcfg]
  exact hn

theorem writeMem_of_fits {d : Descriptor} {m : MemOperand} {v : Byte} {s : State}
    (hm : fits s (addrSum m s)) (hn : fits s (s.pc.toNat + d.bytes)) :
    writeMem d m v s = .next (((s.write (effAddr m s) v).setPc (s.pc + BitVec.ofNat 16 d.bytes)).addCyc (baseCycles d s)) := by
  unfold writeMem
  rw [checked_of_fits _ hm, advance_of_fits, State.write_pc]
  simpa [fits] using hn

theorem modifyMem_of_fits {d : Descriptor} {m : MemOperand} {f : Byte → Byte → Byte × Byte} {s : State}
    (hm : fits s (addrSum m s)) (hn : fits s (s.pc.toNat + d.bytes)) :
    modifyMem d m f s =
      .next ((((s.write (effAddr m s) (f (s.read (effAddr m s)) s.p).1).setP (f (s.read (effAddr m s)) s.p).2).setPc
        (s.pc + BitVec.ofNat 16 d.bytes)).addCyc (baseCycles d s + modifyPenalty m s)) := by
  unfold modifyMem
  rw [checked_of_fits _ hm, advance_of_fits, State.setP_pc, State.write_pc]
  simpa [fits] using hn

theorem modifyA_of_fits {d : Descriptor} {f : Byte → Byte → Byte × Byte} {s : State}
    (hn : fits s (s.pc.toNat + d.bytes)) :
    modifyA d f s = .next ((((s.setA (f s.a s.p).1).setP (f s.a s.p).2).setPc (s.pc + BitVec.ofNat 16 d.bytes)).addCyc (baseCycles d s)) := by
  unfold modifyA
  rw [advance_of_fits, State.setP_pc, State.setA_pc]
  simpa [fits] using hn

theorem implied_of_fits {d : Descriptor} {f : State → State} {s : State}
    (hpc : (f s).pc = s.pc) (hcfg : (f s).cfg = s.cfg) (hn : fits s (s.pc.toNat + d.bytes)) :
    implied d f s = .next (((f s).setPc (s.pc + BitVec.ofNat 16 d.bytes)).addCyc (baseCycles d s)) := by
  unfold implied
  rw [advance_of_fits, hpc]
  unfold fits
  rw [hpc, hcfg]
  exact hn

/-- If a read-path instruction goes on, its next state is the effect on the byte read, advanced. -/
theorem readMem_eq_next {d : Descriptor} {m : MemOperand} {f : Byte → State → State} {s t : State}
    (h : readMem d m f s = .next t) :
    t = ((f (s.read (effAddr m s)) s).setPc ((f (s.read (effAddr m s)) s).pc + BitVec.ofNat 16 d.bytes)).addCyc
      (baseCycles d s + readPenalty d m s) :=
  (advance_eq_next (checked_eq_next h).1).1

theorem readImm_eq_next {d : Descriptor} {v : Byte} {f : Byte → State → State} {s t : State}
    (h : readImm d v f s = .next t) : t = ((f v s).setPc ((f v s).pc + BitVec.ofNat 16 d.bytes)).addCyc (baseCycles d s) :=
  (advance_eq_next h).1

theorem implied_eq_next {d : Descriptor} {f : State → State} {s t : State}
    (h : implied d f s = .next t) : t = ((f s).setPc ((f s).pc + BitVec.ofNat 16 d.bytes)).addCyc (baseCycles d s) :=
  (advance_eq_next h).1

theorem writeMem_eq_next {d : Descriptor} {m : MemOperand} {v : Byte} {s t : State}
    (h : writeMem d m v s = .next t) :
    t = ((s.write (effAddr m s) v).setPc (s.pc + BitVec.ofNat 16 d.bytes)).addCyc (baseCycles d s) := by
  simpa using (advance_eq_next (checked_eq_next h).1).1

theorem modifyMem_eq_next {d : Descriptor} {m : MemOperand} {f : Byte → Byte → Byte × Byte} {s t : State}
    (h : modifyMem d m f s = .next t) :
    t = (((s.write (effAddr m s) (f (s.read (effAddr m s)) s.p).1).setP (f (s.read (effAddr m s)) s.p).2).setPc
      (s.pc + BitVec.ofNat 16 d.bytes)).addCyc (baseCycles d s + modifyPenalty m s) := by
  simpa using (advance_eq_next (checked_eq_next h).1).1

theorem modifyA_eq_next {d : Descriptor} {f : Byte → Byte → Byte × Byte} {s t : State}
    (h : modifyA d f s = .next t) :
    t = (((s.setA (f s.a s.p).1).setP (f s.a s.p).2).setPc (s.pc + BitVec.ofNat 16 d.bytes)).addCyc (baseCycles d s) := by
  simpa using (advance_eq_next h).1

/-- If a branch goes on, only PC and CYC differ (R194). -/
theorem branch_eq_next {d : Descriptor} {disp : Byte} {taken : Bool} {s t : State} (h : branch d disp taken s = .next t) :
    ∃ target n, t = (s.setPc target).addCyc n ∧ baseCycles d s ≤ n := by
  unfold branch at h
  split at h
  · obtain ⟨h, -⟩ := checked_eq_next h
    obtain ⟨h, -⟩ := checked_eq_next h
    cases h
    exact ⟨_, _, rfl, by omega⟩
  · exact ⟨_, _, (advance_eq_next h).1, Nat.le_refl _⟩

/-- The shared modes without a 16-bit index never cross a page. -/
theorem crossed_of_index_zero {m : MemOperand} {s : State} (h : (baseAndIndex m s).2 = 0) : crossed m s = false := by
  simp [crossed, effAddr, h, zext16]

/-- With `ADDR_OVERFLOW = wrap` every sum fits. -/
theorem fits_of_wrap {s : State} (h : s.cfg.addrOverflow = .wrap) (sum : Nat) : fits s sum :=
  fun hf => by simp [h] at hf

theorem runsClear_of_wrap {s : State} (h : s.cfg.addrOverflow = .wrap) (i : Instr) : runsClear i s := by
  refine ⟨?_, fits_of_wrap h _⟩
  unfold operandFits
  split
  · exact fits_of_wrap h _
  all_goals trivial

end Sys2Proof.Machine
end

