-- ==== Sys2Proof/Laws/Generic.lean ====
section
/-! SUPPORT. The 151 arms of `exec` read as one interpreter over table rows: the rule of the row's mnemonic with the row's
operand (30_encoding.md R98). A proof about a mnemonic rewrites with `exec_eq_run` and has one case per operand form. -/

namespace Sys2Proof.Machine

/-- What no row of the table reaches: a mnemonic with an operand it does not have (R138). -/
def noSuchRow : Result := .fault (.unsupportedOpcode 0)

/-- The read path (R134). -/
def runRead (d : Descriptor) (f : Byte → State → State) (s : State) : Result :=
  match d.operand with
  | .imm v => readImm d v f s
  | .mem m => readMem d m f s
  | _ => noSuchRow

/-- The write path (R135). -/
def runWrite (d : Descriptor) (v : Byte) (s : State) : Result :=
  match d.operand with
  | .mem m => writeMem d m v s
  | _ => noSuchRow

/-- The read-modify-write path, or the accumulator (R136, R175). -/
def runModify (d : Descriptor) (f : Byte → Byte → Byte × Byte) (s : State) : Result :=
  match d.operand with
  | .accumulator => modifyA d f s
  | .mem m => modifyMem d m f s
  | _ => noSuchRow

/-- A branch (R194). -/
def runBranch (d : Descriptor) (taken : Bool) (s : State) : Result :=
  match d.operand with
  | .rel disp => branch d disp taken s
  | _ => noSuchRow

/-- The rule of a row's mnemonic with the row's operand (R98). -/
def run (d : Descriptor) (s : State) : Result :=
  match d.mnemonic with
  | .adc => runRead d addWithCarry s
  | .sbc => runRead d subtractWithBorrow s
  | .cmp => runRead d compareA s
  | .cpx => runRead d compareX s
  | .cpy => runRead d compareY s
  | .lda => runRead d loadA s
  | .ldx => runRead d loadX s
  | .ldy => runRead d loadY s
  | .and => runRead d andA s
  | .ora => runRead d orA s
  | .eor => runRead d eorA s
  | .bit => runRead d testBits s
  | .sta => runWrite d s.a s
  | .stx => runWrite d s.x s
  | .sty => runWrite d s.y s
  | .asl => runModify d shiftLeft s
  | .lsr => runModify d shiftRight s
  | .rol => runModify d rotateLeft s
  | .ror => runModify d rotateRight s
  | .inc => runModify d increment s
  | .dec => runModify d decrement s
  | .bcc => runBranch d (!getFlag .c s.p) s
  | .bcs => runBranch d (getFlag .c s.p) s
  | .beq => runBranch d (getFlag .z s.p) s
  | .bne => runBranch d (!getFlag .z s.p) s
  | .bmi => runBranch d (getFlag .n s.p) s
  | .bpl => runBranch d (!getFlag .n s.p) s
  | .bvc => runBranch d (!getFlag .v s.p) s
  | .bvs => runBranch d (getFlag .v s.p) s
  | .jmp =>
    match d.operand with
    | .mem (.abs a) => jumpTo s a (baseCycles d s)
    | .ind ptr => jumpTo s (indirectTarget ptr s) (baseCycles d s)
    | _ => noSuchRow
  | .jsr =>
    match d.operand with
    | .mem (.abs a) => execJsr a s
    | _ => noSuchRow
  | .rts => execRts s
  | .brk => execBrk s
  | .rti => execRti s
  | .pha => implied d pushA s
  | .php => implied d pushP s
  | .pla => implied d pullA s
  | .plp => implied d pullP s
  | .tax => implied d (fun t => loadX t.a t) s
  | .tay => implied d (fun t => loadY t.a t) s
  | .txa => implied d (fun t => loadA t.x t) s
  | .tya => implied d (fun t => loadA t.y t) s
  | .tsx => implied d (fun t => loadX t.sp t) s
  | .txs => implied d (fun t => t.setSp t.x) s
  | .inx => implied d (fun t => loadX (t.x + 1) t) s
  | .iny => implied d (fun t => loadY (t.y + 1) t) s
  | .dex => implied d (fun t => loadX (t.x - 1) t) s
  | .dey => implied d (fun t => loadY (t.y - 1) t) s
  | .clc => implied d (writeFlag .c false) s
  | .sec => implied d (writeFlag .c true) s
  | .cli => implied d (writeFlag .i false) s
  | .sei => implied d (writeFlag .i true) s
  | .clv => implied d (writeFlag .v false) s
  | .cld => implied d (writeFlag .d false) s
  | .sed => implied d (writeFlag .d true) s
  | .nop => implied d (fun t => t) s

/-- Every arm of `exec` is the rule of its table row. -/
theorem exec_eq_run (i : Instr) (s : State) : exec i s = run i.desc s := by
  cases i <;> rfl

/-- Every row of the table is well formed (R94, R137, R138). -/
theorem instr_wellFormed (i : Instr) : i.wellFormed = true := by
  cases i <;> rfl

/-- The read path completes where its sums fit, on the operand value of R134. -/
theorem runRead_of_fits {d : Descriptor} {f : Byte → State → State} {s : State} {v : Byte}
    (hv : operandValue d.operand s = some v) (hpc : (f v s).pc = s.pc) (hcfg : (f v s).cfg = s.cfg)
    (hm : operandFits d.operand s) (hn : fits s (s.pc.toNat + d.bytes)) :
    runRead d f s = .next (((f v s).setPc (s.pc + BitVec.ofNat 16 d.bytes)).addCyc (baseCycles d s + operandPenalty d s)) := by
  unfold runRead operandPenalty
  revert hv hm
  cases h : d.operand <;> simp only [operandValue, operandFits] <;> intro hv hm <;> cases hv
  · rw [readImm_of_fits hpc hcfg hn]
    rfl
  · rw [readMem_of_fits hpc hcfg hm hn]

/-- The write path completes where its sums fit (R135). -/
theorem runWrite_of_fits {d : Descriptor} {m : MemOperand} {v : Byte} {s : State} (h : d.operand = .mem m)
    (hm : fits s (addrSum m s)) (hn : fits s (s.pc.toNat + d.bytes)) :
    runWrite d v s = .next (((s.write (effAddr m s) v).setPc (s.pc + BitVec.ofNat 16 d.bytes)).addCyc (baseCycles d s)) := by
  unfold runWrite
  rw [h]
  exact writeMem_of_fits hm hn

/-- The read-modify-write path completes where its sums fit (R136). -/
theorem runModify_of_fits {d : Descriptor} {m : MemOperand} {f : Byte → Byte → Byte × Byte} {s : State} (h : d.operand = .mem m)
    (hm : fits s (addrSum m s)) (hn : fits s (s.pc.toNat + d.bytes)) :
    runModify d f s =
      .next ((((s.write (effAddr m s) (f (s.read (effAddr m s)) s.p).1).setP (f (s.read (effAddr m s)) s.p).2).setPc
        (s.pc + BitVec.ofNat 16 d.bytes)).addCyc (baseCycles d s + modifyPenalty m s)) := by
  unfold runModify
  rw [h]
  exact modifyMem_of_fits hm hn

/-- Everything a next state of the read path can be. -/
theorem runRead_eq_next {d : Descriptor} {f : Byte → State → State} {s t : State} (h : runRead d f s = .next t) :
    ∃ v, operandValue d.operand s = some v ∧
      t = ((f v s).setPc ((f v s).pc + BitVec.ofNat 16 d.bytes)).addCyc (baseCycles d s + operandPenalty d s) := by
  unfold runRead at h
  unfold operandPenalty
  split at h
  · next v hv => rw [hv]; exact ⟨v, rfl, readImm_eq_next h⟩
  · next m hm => rw [hm]; exact ⟨_, rfl, readMem_eq_next h⟩
  · cases h

/-- Everything a next state of the write path can be. -/
theorem runWrite_eq_next {d : Descriptor} {v : Byte} {s t : State} (h : runWrite d v s = .next t) :
    ∃ m, d.operand = .mem m ∧
      t = ((s.write (effAddr m s) v).setPc (s.pc + BitVec.ofNat 16 d.bytes)).addCyc (baseCycles d s) := by
  unfold runWrite at h
  split at h
  · next m hm => exact ⟨m, hm, writeMem_eq_next h⟩
  · cases h

/-- Everything a next state of the read-modify-write path, or of its accumulator form, can be. -/
theorem runModify_eq_next {d : Descriptor} {f : Byte → Byte → Byte × Byte} {s t : State} (h : runModify d f s = .next t) :
    (d.operand = .accumulator ∧
      t = (((s.setA (f s.a s.p).1).setP (f s.a s.p).2).setPc (s.pc + BitVec.ofNat 16 d.bytes)).addCyc (baseCycles d s)) ∨
    ∃ m, d.operand = .mem m ∧
      t = (((s.write (effAddr m s) (f (s.read (effAddr m s)) s.p).1).setP (f (s.read (effAddr m s)) s.p).2).setPc
        (s.pc + BitVec.ofNat 16 d.bytes)).addCyc (baseCycles d s + modifyPenalty m s) := by
  unfold runModify at h
  split at h
  · next ha => exact .inl ⟨ha, modifyA_eq_next h⟩
  · next m hm => exact .inr ⟨m, hm, modifyMem_eq_next h⟩
  · cases h

/-- Everything a next state of a branch can be. -/
theorem runBranch_eq_next {d : Descriptor} {taken : Bool} {s t : State} (h : runBranch d taken s = .next t) :
    ∃ target n, t = (s.setPc target).addCyc n ∧ baseCycles d s ≤ n := by
  unfold runBranch at h
  split at h
  · exact branch_eq_next h
  · cases h

/-- Everything a next state of JMP can be. -/
theorem runJmp_eq_next {d : Descriptor} {s t : State} (hd : d.mnemonic = .jmp) (h : run d s = .next t) :
    ∃ target, t = (s.setPc target).addCyc (baseCycles d s) := by
  simp only [run, hd] at h
  split at h
  · cases h
    exact ⟨_, rfl⟩
  · cases h
    exact ⟨_, rfl⟩
  · cases h

/-- Everything a next state of JSR can be. -/
theorem execJsr_eq_next {a : Addr} {s t : State} (h : execJsr a s = .next t) :
    t = ((((s.push (page (s.pc + 2))).push (lowByte (s.pc + 2))).setPc a).addCyc (baseCycles (Instr.jsr a).desc s)) ∧
      fits s (s.pc.toNat + 2) := by
  obtain ⟨h, hf⟩ := checked_eq_next h
  cases h
  exact ⟨rfl, hf⟩

/-- Everything a next state of RTS can be. -/
theorem execRts_eq_next {s t : State} (h : execRts s = .next t) :
    ∃ target, t = (s.pulled.pulled.setPc target).addCyc (baseCycles Instr.rts.desc s) := by
  obtain ⟨h, -⟩ := checked_eq_next h
  cases h
  exact ⟨_, rfl⟩

/-- Everything a next state of BRK can be: skipped with I set, a trap entry with I clear. -/
theorem execBrk_eq_next {s t : State} (h : execBrk s = .next t) :
    (getFlag .i s.p = true ∧
      t = (s.setPc (s.pc + BitVec.ofNat 16 s.cfg.brkLength)).addCyc s.cfg.brkSkippedCycles) ∨
    (getFlag .i s.p = false ∧ t = (enterTrap s (s.pc + 1)).addCyc (baseCycles Instr.brk.desc s) ∧ fits s (s.pc.toNat + 1)) := by
  unfold execBrk at h
  split at h
  · next hi => exact .inl ⟨hi, (advance_eq_next h).1⟩
  · next hi =>
    obtain ⟨h, hf⟩ := checked_eq_next h
    cases h
    exact .inr ⟨by simpa using hi, rfl, hf⟩

end Sys2Proof.Machine
end

