-- ==== Sys2Proof/Laws/PerInstr.lean ====
section
/-! SUPPORT. Statements made per instruction. Family TableRow: the default InstructionTable has a row for the instruction's
mnemonic and mode, which its opcode is looked up to (30_encoding.md R94, R96), and the encoding has that row's opcode and length
(R90, R92). -/

namespace Sys2Proof.Laws.TableRow

/-- The instruction's row in the default table, and its encoding. -/
def Statement (i : Instr) : Prop :=
  ∃ r : TableRow, describe standardTable r.opcode = some r ∧
    r.mnemonic = i.desc.mnemonic ∧ r.mode = i.desc.operand.mode ∧ r.bytes = i.desc.bytes ∧ r.pageCross = i.desc.pageCross ∧
    encode i = r.opcode :: i.desc.operand.bytes ∧ (encode i).length = r.bytes

/-- One proof for every row: the table is well formed and has the instruction's pair. -/
theorem holds (i : Instr) : Statement i := by
  obtain ⟨r, hr⟩ := rowFor_standardTable i
  obtain ⟨hmn, hmode, hd⟩ := rowFor_eq_some hr
  obtain ⟨-, hl, hp⟩ := wellFormed_row (describe_eq_some hd).2.2
  have he : encode i = r.opcode :: i.desc.operand.bytes := by simp [encode, encodeWith, hr]
  refine ⟨r, hd, hmn, hmode, by rw [hl, hmode, Descriptor.bytes], by rw [hp, hmn, hmode, Descriptor.pageCross], he, ?_⟩
  rw [he, hl, hmode, List.length_cons, length_operand_bytes]

theorem adcImm (imm : Byte) : Statement (.adcImm imm) := holds _
theorem adcZp (zp : Byte) : Statement (.adcZp zp) := holds _
theorem adcZpX (zp : Byte) : Statement (.adcZpX zp) := holds _
theorem adcAbs (abs : Addr) : Statement (.adcAbs abs) := holds _
theorem adcAbsX (abs : Addr) : Statement (.adcAbsX abs) := holds _
theorem adcAbsY (abs : Addr) : Statement (.adcAbsY abs) := holds _
theorem adcIndX (zp : Byte) : Statement (.adcIndX zp) := holds _
theorem adcIndY (zp : Byte) : Statement (.adcIndY zp) := holds _
theorem sbcImm (imm : Byte) : Statement (.sbcImm imm) := holds _
theorem sbcZp (zp : Byte) : Statement (.sbcZp zp) := holds _
theorem sbcZpX (zp : Byte) : Statement (.sbcZpX zp) := holds _
theorem sbcAbs (abs : Addr) : Statement (.sbcAbs abs) := holds _
theorem sbcAbsX (abs : Addr) : Statement (.sbcAbsX abs) := holds _
theorem sbcAbsY (abs : Addr) : Statement (.sbcAbsY abs) := holds _
theorem sbcIndX (zp : Byte) : Statement (.sbcIndX zp) := holds _
theorem sbcIndY (zp : Byte) : Statement (.sbcIndY zp) := holds _
theorem cmpImm (imm : Byte) : Statement (.cmpImm imm) := holds _
theorem cmpZp (zp : Byte) : Statement (.cmpZp zp) := holds _
theorem cmpZpX (zp : Byte) : Statement (.cmpZpX zp) := holds _
theorem cmpAbs (abs : Addr) : Statement (.cmpAbs abs) := holds _
theorem cmpAbsX (abs : Addr) : Statement (.cmpAbsX abs) := holds _
theorem cmpAbsY (abs : Addr) : Statement (.cmpAbsY abs) := holds _
theorem cmpIndX (zp : Byte) : Statement (.cmpIndX zp) := holds _
theorem cmpIndY (zp : Byte) : Statement (.cmpIndY zp) := holds _
theorem cpxImm (imm : Byte) : Statement (.cpxImm imm) := holds _
theorem cpxZp (zp : Byte) : Statement (.cpxZp zp) := holds _
theorem cpxAbs (abs : Addr) : Statement (.cpxAbs abs) := holds _
theorem cpyImm (imm : Byte) : Statement (.cpyImm imm) := holds _
theorem cpyZp (zp : Byte) : Statement (.cpyZp zp) := holds _
theorem cpyAbs (abs : Addr) : Statement (.cpyAbs abs) := holds _
theorem aslAcc : Statement (.aslAcc) := holds _
theorem aslZp (zp : Byte) : Statement (.aslZp zp) := holds _
theorem aslZpX (zp : Byte) : Statement (.aslZpX zp) := holds _
theorem aslAbs (abs : Addr) : Statement (.aslAbs abs) := holds _
theorem aslAbsX (abs : Addr) : Statement (.aslAbsX abs) := holds _
theorem lsrAcc : Statement (.lsrAcc) := holds _
theorem lsrZp (zp : Byte) : Statement (.lsrZp zp) := holds _
theorem lsrZpX (zp : Byte) : Statement (.lsrZpX zp) := holds _
theorem lsrAbs (abs : Addr) : Statement (.lsrAbs abs) := holds _
theorem lsrAbsX (abs : Addr) : Statement (.lsrAbsX abs) := holds _
theorem rolAcc : Statement (.rolAcc) := holds _
theorem rolZp (zp : Byte) : Statement (.rolZp zp) := holds _
theorem rolZpX (zp : Byte) : Statement (.rolZpX zp) := holds _
theorem rolAbs (abs : Addr) : Statement (.rolAbs abs) := holds _
theorem rolAbsX (abs : Addr) : Statement (.rolAbsX abs) := holds _
theorem rorAcc : Statement (.rorAcc) := holds _
theorem rorZp (zp : Byte) : Statement (.rorZp zp) := holds _
theorem rorZpX (zp : Byte) : Statement (.rorZpX zp) := holds _
theorem rorAbs (abs : Addr) : Statement (.rorAbs abs) := holds _
theorem rorAbsX (abs : Addr) : Statement (.rorAbsX abs) := holds _
theorem jmpAbs (abs : Addr) : Statement (.jmpAbs abs) := holds _
theorem jmpInd (ptr : Addr) : Statement (.jmpInd ptr) := holds _
theorem jsr (abs : Addr) : Statement (.jsr abs) := holds _
theorem rts : Statement (.rts) := holds _
theorem bcc (disp : Byte) : Statement (.bcc disp) := holds _
theorem bcs (disp : Byte) : Statement (.bcs disp) := holds _
theorem beq (disp : Byte) : Statement (.beq disp) := holds _
theorem bne (disp : Byte) : Statement (.bne disp) := holds _
theorem bmi (disp : Byte) : Statement (.bmi disp) := holds _
theorem bpl (disp : Byte) : Statement (.bpl disp) := holds _
theorem bvc (disp : Byte) : Statement (.bvc disp) := holds _
theorem bvs (disp : Byte) : Statement (.bvs disp) := holds _
theorem brk : Statement (.brk) := holds _
theorem rti : Statement (.rti) := holds _
theorem pha : Statement (.pha) := holds _
theorem php : Statement (.php) := holds _
theorem pla : Statement (.pla) := holds _
theorem plp : Statement (.plp) := holds _
theorem ldaImm (imm : Byte) : Statement (.ldaImm imm) := holds _
theorem ldaZp (zp : Byte) : Statement (.ldaZp zp) := holds _
theorem ldaZpX (zp : Byte) : Statement (.ldaZpX zp) := holds _
theorem ldaAbs (abs : Addr) : Statement (.ldaAbs abs) := holds _
theorem ldaAbsX (abs : Addr) : Statement (.ldaAbsX abs) := holds _
theorem ldaAbsY (abs : Addr) : Statement (.ldaAbsY abs) := holds _
theorem ldaIndX (zp : Byte) : Statement (.ldaIndX zp) := holds _
theorem ldaIndY (zp : Byte) : Statement (.ldaIndY zp) := holds _
theorem ldxImm (imm : Byte) : Statement (.ldxImm imm) := holds _
theorem ldxZp (zp : Byte) : Statement (.ldxZp zp) := holds _
theorem ldxZpY (zp : Byte) : Statement (.ldxZpY zp) := holds _
theorem ldxAbs (abs : Addr) : Statement (.ldxAbs abs) := holds _
theorem ldxAbsY (abs : Addr) : Statement (.ldxAbsY abs) := holds _
theorem ldyImm (imm : Byte) : Statement (.ldyImm imm) := holds _
theorem ldyZp (zp : Byte) : Statement (.ldyZp zp) := holds _
theorem ldyZpX (zp : Byte) : Statement (.ldyZpX zp) := holds _
theorem ldyAbs (abs : Addr) : Statement (.ldyAbs abs) := holds _
theorem ldyAbsX (abs : Addr) : Statement (.ldyAbsX abs) := holds _
theorem staZp (zp : Byte) : Statement (.staZp zp) := holds _
theorem staZpX (zp : Byte) : Statement (.staZpX zp) := holds _
theorem staAbs (abs : Addr) : Statement (.staAbs abs) := holds _
theorem staAbsX (abs : Addr) : Statement (.staAbsX abs) := holds _
theorem staAbsY (abs : Addr) : Statement (.staAbsY abs) := holds _
theorem staIndX (zp : Byte) : Statement (.staIndX zp) := holds _
theorem staIndY (zp : Byte) : Statement (.staIndY zp) := holds _
theorem stxZp (zp : Byte) : Statement (.stxZp zp) := holds _
theorem stxZpY (zp : Byte) : Statement (.stxZpY zp) := holds _
theorem stxAbs (abs : Addr) : Statement (.stxAbs abs) := holds _
theorem styZp (zp : Byte) : Statement (.styZp zp) := holds _
theorem styZpX (zp : Byte) : Statement (.styZpX zp) := holds _
theorem styAbs (abs : Addr) : Statement (.styAbs abs) := holds _
theorem tax : Statement (.tax) := holds _
theorem tay : Statement (.tay) := holds _
theorem txa : Statement (.txa) := holds _
theorem tya : Statement (.tya) := holds _
theorem tsx : Statement (.tsx) := holds _
theorem txs : Statement (.txs) := holds _
theorem andImm (imm : Byte) : Statement (.andImm imm) := holds _
theorem andZp (zp : Byte) : Statement (.andZp zp) := holds _
theorem andZpX (zp : Byte) : Statement (.andZpX zp) := holds _
theorem andAbs (abs : Addr) : Statement (.andAbs abs) := holds _
theorem andAbsX (abs : Addr) : Statement (.andAbsX abs) := holds _
theorem andAbsY (abs : Addr) : Statement (.andAbsY abs) := holds _
theorem andIndX (zp : Byte) : Statement (.andIndX zp) := holds _
theorem andIndY (zp : Byte) : Statement (.andIndY zp) := holds _
theorem oraImm (imm : Byte) : Statement (.oraImm imm) := holds _
theorem oraZp (zp : Byte) : Statement (.oraZp zp) := holds _
theorem oraZpX (zp : Byte) : Statement (.oraZpX zp) := holds _
theorem oraAbs (abs : Addr) : Statement (.oraAbs abs) := holds _
theorem oraAbsX (abs : Addr) : Statement (.oraAbsX abs) := holds _
theorem oraAbsY (abs : Addr) : Statement (.oraAbsY abs) := holds _
theorem oraIndX (zp : Byte) : Statement (.oraIndX zp) := holds _
theorem oraIndY (zp : Byte) : Statement (.oraIndY zp) := holds _
theorem eorImm (imm : Byte) : Statement (.eorImm imm) := holds _
theorem eorZp (zp : Byte) : Statement (.eorZp zp) := holds _
theorem eorZpX (zp : Byte) : Statement (.eorZpX zp) := holds _
theorem eorAbs (abs : Addr) : Statement (.eorAbs abs) := holds _
theorem eorAbsX (abs : Addr) : Statement (.eorAbsX abs) := holds _
theorem eorAbsY (abs : Addr) : Statement (.eorAbsY abs) := holds _
theorem eorIndX (zp : Byte) : Statement (.eorIndX zp) := holds _
theorem eorIndY (zp : Byte) : Statement (.eorIndY zp) := holds _
theorem bitZp (zp : Byte) : Statement (.bitZp zp) := holds _
theorem bitAbs (abs : Addr) : Statement (.bitAbs abs) := holds _
theorem incZp (zp : Byte) : Statement (.incZp zp) := holds _
theorem incZpX (zp : Byte) : Statement (.incZpX zp) := holds _
theorem incAbs (abs : Addr) : Statement (.incAbs abs) := holds _
theorem incAbsX (abs : Addr) : Statement (.incAbsX abs) := holds _
theorem decZp (zp : Byte) : Statement (.decZp zp) := holds _
theorem decZpX (zp : Byte) : Statement (.decZpX zp) := holds _
theorem decAbs (abs : Addr) : Statement (.decAbs abs) := holds _
theorem decAbsX (abs : Addr) : Statement (.decAbsX abs) := holds _
theorem inx : Statement (.inx) := holds _
theorem iny : Statement (.iny) := holds _
theorem dex : Statement (.dex) := holds _
theorem dey : Statement (.dey) := holds _
theorem clc : Statement (.clc) := holds _
theorem sec : Statement (.sec) := holds _
theorem cli : Statement (.cli) := holds _
theorem sei : Statement (.sei) := holds _
theorem clv : Statement (.clv) := holds _
theorem cld : Statement (.cld) := holds _
theorem sed : Statement (.sed) := holds _
theorem nop : Statement (.nop) := holds _

end Sys2Proof.Laws.TableRow
end

