-- ==== Sys2Proof/Tests/Slice0.lean ====
section
/-! SUPPORT. The model's own tests. Expected results come from the spec: the encodings from the Encoding lines of 41 to 46, the
single-step cases from 95_test_vectors.md (each named by its vector), the witnesses from the hypotheses of the obligations. -/

namespace Sys2Proof.Tests

open Sys2Proof.Machine

/-! ### The well-formedness checks refuse what is ill formed -/

/-- R138: STA has no Immediate form; LDX has ZeroPageY, not ZeroPageX. -/
theorem test_modeOk_refuses :
    Descriptor.modeOk ⟨.sta, .imm 0⟩ = false ∧ TableRow.modeOk ⟨0x89, .sta, .imm, 2, 2, false⟩ = false ∧
    Descriptor.modeOk ⟨.ldx, .mem (.zpX 0)⟩ = false ∧ TableRow.modeOk ⟨0xB6, .ldx, .zpx, 2, 4, false⟩ = false ∧
    TableRow.wellFormed ⟨0xB6, .ldx, .zpx, 2, 4, false⟩ = false := by decide

/-- R94: an Absolute row of two bytes. -/
theorem test_lengthOk_refuses_short_absolute :
    TableRow.lengthOk ⟨0xAD, .lda, .abs, 2, 4, false⟩ = false ∧
    TableRow.wellFormed ⟨0xAD, .lda, .abs, 2, 4, false⟩ = false := by decide

/-- R137: a store never takes the page-cross cycle, a read on IndirectY always may. -/
theorem test_penaltyOk_refuses_wrong_penalty :
    TableRow.penaltyOk ⟨0x9D, .sta, .absx, 3, 5, true⟩ = false ∧
    TableRow.wellFormed ⟨0x9D, .sta, .absx, 3, 5, true⟩ = false ∧
    TableRow.penaltyOk ⟨0xB1, .lda, .indy, 2, 5, false⟩ = false ∧
    TableRow.wellFormed ⟨0xB1, .lda, .indy, 2, 5, false⟩ = false := by decide

theorem test_wellFormed_accepts_table_row : TableRow.wellFormed ⟨0xB1, .lda, .indy, 2, 5, true⟩ = true := by decide

/-- R94, R6: a table that gives an opcode two rows, one with an ill-formed row, one in which RTI does not cost what BRK does. -/
theorem test_table_wellFormed_refuses :
    InstructionTable.opcodesDistinct [⟨0xEA, .nop, .imp, 1, 2, false⟩, ⟨0xEA, .tax, .imp, 1, 2, false⟩] = false ∧
    InstructionTable.wellFormed [⟨0xEA, .nop, .imp, 1, 2, false⟩, ⟨0xEA, .tax, .imp, 1, 2, false⟩] = false ∧
    InstructionTable.wellFormed [⟨0xAD, .lda, .abs, 2, 4, false⟩] = false ∧
    InstructionTable.rtiCostsBrk [⟨0x00, .brk, .imp, 1, 7, false⟩, ⟨0x40, .rti, .imp, 1, 6, false⟩] = false ∧
    InstructionTable.wellFormed [⟨0x00, .brk, .imp, 1, 7, false⟩, ⟨0x40, .rti, .imp, 1, 6, false⟩] = false ∧
    InstructionTable.wellFormed [⟨0x00, .brk, .imp, 1, 7, false⟩, ⟨0x40, .rti, .imp, 1, 7, false⟩] = true := by decide

/-! ### Decoding: one word for every constructor, from the spec's Encoding lines

A word is written as the opcode table numbers its bits: the opcode is the lowest byte, the operand bytes above it, low byte
first. -/

/-- R154. -/
theorem test_decode_adc :
    decodeTableWord 16 0x1769 = some (.adcImm 0x17) ∧
    decodeTableWord 16 0x1E65 = some (.adcZp 0x1E) ∧
    decodeTableWord 16 0x2575 = some (.adcZpX 0x25) ∧
    decodeTableWord 24 0xA52C6D = some (.adcAbs 0xA52C) ∧
    decodeTableWord 24 0xAA337D = some (.adcAbsX 0xAA33) ∧
    decodeTableWord 24 0xAF3A79 = some (.adcAbsY 0xAF3A) ∧
    decodeTableWord 16 0x4161 = some (.adcIndX 0x41) ∧
    decodeTableWord 16 0x4871 = some (.adcIndY 0x48) := by decide

/-- R155. -/
theorem test_decode_sbc :
    decodeTableWord 16 0x4FE9 = some (.sbcImm 0x4F) ∧
    decodeTableWord 16 0x56E5 = some (.sbcZp 0x56) ∧
    decodeTableWord 16 0x5DF5 = some (.sbcZpX 0x5D) ∧
    decodeTableWord 24 0xCD64ED = some (.sbcAbs 0xCD64) ∧
    decodeTableWord 24 0xD26BFD = some (.sbcAbsX 0xD26B) ∧
    decodeTableWord 24 0xD772F9 = some (.sbcAbsY 0xD772) ∧
    decodeTableWord 16 0x79E1 = some (.sbcIndX 0x79) ∧
    decodeTableWord 16 0x80F1 = some (.sbcIndY 0x80) := by decide

/-- R156. -/
theorem test_decode_cmp :
    decodeTableWord 16 0x87C9 = some (.cmpImm 0x87) ∧
    decodeTableWord 16 0x8EC5 = some (.cmpZp 0x8E) ∧
    decodeTableWord 16 0x95D5 = some (.cmpZpX 0x95) ∧
    decodeTableWord 24 0xF59CCD = some (.cmpAbs 0xF59C) ∧
    decodeTableWord 24 0xFAA3DD = some (.cmpAbsX 0xFAA3) ∧
    decodeTableWord 24 0xFFAAD9 = some (.cmpAbsY 0xFFAA) ∧
    decodeTableWord 16 0xB1C1 = some (.cmpIndX 0xB1) ∧
    decodeTableWord 16 0xB8D1 = some (.cmpIndY 0xB8) := by decide

/-- R157. -/
theorem test_decode_cpx :
    decodeTableWord 16 0xBFE0 = some (.cpxImm 0xBF) ∧
    decodeTableWord 16 0xC6E4 = some (.cpxZp 0xC6) ∧
    decodeTableWord 24 0x18CDEC = some (.cpxAbs 0x18CD) := by decide

/-- R158. -/
theorem test_decode_cpy :
    decodeTableWord 16 0xD4C0 = some (.cpyImm 0xD4) ∧
    decodeTableWord 16 0xDBC4 = some (.cpyZp 0xDB) ∧
    decodeTableWord 24 0x27E2CC = some (.cpyAbs 0x27E2) := by decide

/-- R171. -/
theorem test_decode_asl :
    decodeTableWord 8 0x0A = some .aslAcc ∧
    decodeTableWord 16 0xF006 = some (.aslZp 0xF0) ∧
    decodeTableWord 16 0xF716 = some (.aslZpX 0xF7) ∧
    decodeTableWord 24 0x3BFE0E = some (.aslAbs 0x3BFE) ∧
    decodeTableWord 24 0x40051E = some (.aslAbsX 0x4005) := by decide

/-- R172. -/
theorem test_decode_lsr :
    decodeTableWord 8 0x4A = some .lsrAcc ∧
    decodeTableWord 16 0x1346 = some (.lsrZp 0x13) ∧
    decodeTableWord 16 0x1A56 = some (.lsrZpX 0x1A) ∧
    decodeTableWord 24 0x54214E = some (.lsrAbs 0x5421) ∧
    decodeTableWord 24 0x59285E = some (.lsrAbsX 0x5928) := by decide

/-- R173. -/
theorem test_decode_rol :
    decodeTableWord 8 0x2A = some .rolAcc ∧
    decodeTableWord 16 0x3626 = some (.rolZp 0x36) ∧
    decodeTableWord 16 0x3D36 = some (.rolZpX 0x3D) ∧
    decodeTableWord 24 0x6D442E = some (.rolAbs 0x6D44) ∧
    decodeTableWord 24 0x724B3E = some (.rolAbsX 0x724B) := by decide

/-- R174. -/
theorem test_decode_ror :
    decodeTableWord 8 0x6A = some .rorAcc ∧
    decodeTableWord 16 0x5966 = some (.rorZp 0x59) ∧
    decodeTableWord 16 0x6076 = some (.rorZpX 0x60) ∧
    decodeTableWord 24 0x86676E = some (.rorAbs 0x8667) ∧
    decodeTableWord 24 0x8B6E7E = some (.rorAbsX 0x8B6E) := by decide

/-- R190. -/
theorem test_decode_jmp :
    decodeTableWord 24 0x90754C = some (.jmpAbs 0x9075) ∧
    decodeTableWord 24 0x957C6C = some (.jmpInd 0x957C) := by decide

/-- R192. -/
theorem test_decode_jsr :
    decodeTableWord 24 0x9A8320 = some (.jsr 0x9A83) := by decide

/-- R193. -/
theorem test_decode_rts :
    decodeTableWord 8 0x60 = some .rts := by decide

/-- R195. -/
theorem test_decode_bcc :
    decodeTableWord 16 0x9190 = some (.bcc 0x91) := by decide

/-- R196. -/
theorem test_decode_bcs :
    decodeTableWord 16 0x98B0 = some (.bcs 0x98) := by decide

/-- R197. -/
theorem test_decode_beq :
    decodeTableWord 16 0x9FF0 = some (.beq 0x9F) := by decide

/-- R198. -/
theorem test_decode_bne :
    decodeTableWord 16 0xA6D0 = some (.bne 0xA6) := by decide

/-- R199. -/
theorem test_decode_bmi :
    decodeTableWord 16 0xAD30 = some (.bmi 0xAD) := by decide

/-- R200. -/
theorem test_decode_bpl :
    decodeTableWord 16 0xB410 = some (.bpl 0xB4) := by decide

/-- R201. -/
theorem test_decode_bvc :
    decodeTableWord 16 0xBB50 = some (.bvc 0xBB) := by decide

/-- R202. -/
theorem test_decode_bvs :
    decodeTableWord 16 0xC270 = some (.bvs 0xC2) := by decide

/-- R220. -/
theorem test_decode_brk :
    decodeTableWord 8 0x00 = some .brk := by decide

/-- R221. -/
theorem test_decode_rti :
    decodeTableWord 8 0x40 = some .rti := by decide

/-- R222. -/
theorem test_decode_pha :
    decodeTableWord 8 0x48 = some .pha := by decide

/-- R223. -/
theorem test_decode_php :
    decodeTableWord 8 0x08 = some .php := by decide

/-- R224. -/
theorem test_decode_pla :
    decodeTableWord 8 0x68 = some .pla := by decide

/-- R225. -/
theorem test_decode_plp :
    decodeTableWord 8 0x28 = some .plp := by decide

/-- R240. -/
theorem test_decode_lda :
    decodeTableWord 16 0xF3A9 = some (.ldaImm 0xF3) ∧
    decodeTableWord 16 0xFAA5 = some (.ldaZp 0xFA) ∧
    decodeTableWord 16 0x01B5 = some (.ldaZpX 0x01) ∧
    decodeTableWord 24 0xF908AD = some (.ldaAbs 0xF908) ∧
    decodeTableWord 24 0xFE0FBD = some (.ldaAbsX 0xFE0F) ∧
    decodeTableWord 24 0x0316B9 = some (.ldaAbsY 0x0316) ∧
    decodeTableWord 16 0x1DA1 = some (.ldaIndX 0x1D) ∧
    decodeTableWord 16 0x24B1 = some (.ldaIndY 0x24) := by decide

/-- R241. -/
theorem test_decode_ldx :
    decodeTableWord 16 0x2BA2 = some (.ldxImm 0x2B) ∧
    decodeTableWord 16 0x32A6 = some (.ldxZp 0x32) ∧
    decodeTableWord 16 0x39B6 = some (.ldxZpY 0x39) ∧
    decodeTableWord 24 0x2140AE = some (.ldxAbs 0x2140) ∧
    decodeTableWord 24 0x2647BE = some (.ldxAbsY 0x2647) := by decide

/-- R242. -/
theorem test_decode_ldy :
    decodeTableWord 16 0x4EA0 = some (.ldyImm 0x4E) ∧
    decodeTableWord 16 0x55A4 = some (.ldyZp 0x55) ∧
    decodeTableWord 16 0x5CB4 = some (.ldyZpX 0x5C) ∧
    decodeTableWord 24 0x3A63AC = some (.ldyAbs 0x3A63) ∧
    decodeTableWord 24 0x3F6ABC = some (.ldyAbsX 0x3F6A) := by decide

/-- R243. -/
theorem test_decode_sta :
    decodeTableWord 16 0x7185 = some (.staZp 0x71) ∧
    decodeTableWord 16 0x7895 = some (.staZpX 0x78) ∧
    decodeTableWord 24 0x4E7F8D = some (.staAbs 0x4E7F) ∧
    decodeTableWord 24 0x53869D = some (.staAbsX 0x5386) ∧
    decodeTableWord 24 0x588D99 = some (.staAbsY 0x588D) ∧
    decodeTableWord 16 0x9481 = some (.staIndX 0x94) ∧
    decodeTableWord 16 0x9B91 = some (.staIndY 0x9B) := by decide

/-- R244. -/
theorem test_decode_stx :
    decodeTableWord 16 0xA286 = some (.stxZp 0xA2) ∧
    decodeTableWord 16 0xA996 = some (.stxZpY 0xA9) ∧
    decodeTableWord 24 0x71B08E = some (.stxAbs 0x71B0) := by decide

/-- R245. -/
theorem test_decode_sty :
    decodeTableWord 16 0xB784 = some (.styZp 0xB7) ∧
    decodeTableWord 16 0xBE94 = some (.styZpX 0xBE) ∧
    decodeTableWord 24 0x80C58C = some (.styAbs 0x80C5) := by decide

/-- R246. -/
theorem test_decode_tax :
    decodeTableWord 8 0xAA = some .tax := by decide

/-- R247. -/
theorem test_decode_tay :
    decodeTableWord 8 0xA8 = some .tay := by decide

/-- R248. -/
theorem test_decode_txa :
    decodeTableWord 8 0x8A = some .txa := by decide

/-- R249. -/
theorem test_decode_tya :
    decodeTableWord 8 0x98 = some .tya := by decide

/-- R250. -/
theorem test_decode_tsx :
    decodeTableWord 8 0xBA = some .tsx := by decide

/-- R251. -/
theorem test_decode_txs :
    decodeTableWord 8 0x9A = some .txs := by decide

/-- R270. -/
theorem test_decode_and :
    decodeTableWord 16 0xF629 = some (.andImm 0xF6) ∧
    decodeTableWord 16 0xFD25 = some (.andZp 0xFD) ∧
    decodeTableWord 16 0x0435 = some (.andZpX 0x04) ∧
    decodeTableWord 24 0xB20B2D = some (.andAbs 0xB20B) ∧
    decodeTableWord 24 0xB7123D = some (.andAbsX 0xB712) ∧
    decodeTableWord 24 0xBC1939 = some (.andAbsY 0xBC19) ∧
    decodeTableWord 16 0x2021 = some (.andIndX 0x20) ∧
    decodeTableWord 16 0x2731 = some (.andIndY 0x27) := by decide

/-- R271. -/
theorem test_decode_ora :
    decodeTableWord 16 0x2E09 = some (.oraImm 0x2E) ∧
    decodeTableWord 16 0x3505 = some (.oraZp 0x35) ∧
    decodeTableWord 16 0x3C15 = some (.oraZpX 0x3C) ∧
    decodeTableWord 24 0xDA430D = some (.oraAbs 0xDA43) ∧
    decodeTableWord 24 0xDF4A1D = some (.oraAbsX 0xDF4A) ∧
    decodeTableWord 24 0xE45119 = some (.oraAbsY 0xE451) ∧
    decodeTableWord 16 0x5801 = some (.oraIndX 0x58) ∧
    decodeTableWord 16 0x5F11 = some (.oraIndY 0x5F) := by decide

/-- R272. -/
theorem test_decode_eor :
    decodeTableWord 16 0x6649 = some (.eorImm 0x66) ∧
    decodeTableWord 16 0x6D45 = some (.eorZp 0x6D) ∧
    decodeTableWord 16 0x7455 = some (.eorZpX 0x74) ∧
    decodeTableWord 24 0x027B4D = some (.eorAbs 0x027B) ∧
    decodeTableWord 24 0x07825D = some (.eorAbsX 0x0782) ∧
    decodeTableWord 24 0x0C8959 = some (.eorAbsY 0x0C89) ∧
    decodeTableWord 16 0x9041 = some (.eorIndX 0x90) ∧
    decodeTableWord 16 0x9751 = some (.eorIndY 0x97) := by decide

/-- R273. -/
theorem test_decode_bit :
    decodeTableWord 16 0x9E24 = some (.bitZp 0x9E) ∧
    decodeTableWord 24 0x20A52C = some (.bitAbs 0x20A5) := by decide

/-- R274. -/
theorem test_decode_inc :
    decodeTableWord 16 0xACE6 = some (.incZp 0xAC) ∧
    decodeTableWord 16 0xB3F6 = some (.incZpX 0xB3) ∧
    decodeTableWord 24 0x2FBAEE = some (.incAbs 0x2FBA) ∧
    decodeTableWord 24 0x34C1FE = some (.incAbsX 0x34C1) := by decide

/-- R275. -/
theorem test_decode_dec :
    decodeTableWord 16 0xC8C6 = some (.decZp 0xC8) ∧
    decodeTableWord 16 0xCFD6 = some (.decZpX 0xCF) ∧
    decodeTableWord 24 0x43D6CE = some (.decAbs 0x43D6) ∧
    decodeTableWord 24 0x48DDDE = some (.decAbsX 0x48DD) := by decide

/-- R276. -/
theorem test_decode_inx :
    decodeTableWord 8 0xE8 = some .inx := by decide

/-- R277. -/
theorem test_decode_iny :
    decodeTableWord 8 0xC8 = some .iny := by decide

/-- R278. -/
theorem test_decode_dex :
    decodeTableWord 8 0xCA = some .dex := by decide

/-- R279. -/
theorem test_decode_dey :
    decodeTableWord 8 0x88 = some .dey := by decide

/-- R280. -/
theorem test_decode_clc :
    decodeTableWord 8 0x18 = some .clc := by decide

/-- R281. -/
theorem test_decode_sec :
    decodeTableWord 8 0x38 = some .sec := by decide

/-- R282. -/
theorem test_decode_cli :
    decodeTableWord 8 0x58 = some .cli := by decide

/-- R283. -/
theorem test_decode_sei :
    decodeTableWord 8 0x78 = some .sei := by decide

/-- R284. -/
theorem test_decode_clv :
    decodeTableWord 8 0xB8 = some .clv := by decide

/-- R285. -/
theorem test_decode_cld :
    decodeTableWord 8 0xD8 = some .cld := by decide

/-- R286. -/
theorem test_decode_sed :
    decodeTableWord 8 0xF8 = some .sed := by decide

/-- R287. -/
theorem test_decode_nop :
    decodeTableWord 8 0xEA = some .nop := by decide

/-- R97: reserved opcodes are refused by name, truncated instructions too. -/
theorem test_decode_refuses :
    decodeTableWord 8 0x02 = none ∧ decodeTableWord 8 0xEB = none ∧ decodeTableWord 8 0xFF = none ∧
    decode [0x02] = .error (.unsupportedOpcode 0x02) ∧ decode [0xAD, 0x34] = .error (.truncated 0xAD) ∧ decode [] = .error .noBytes := by
  refine ⟨?_, ?_, ?_, rfl, rfl, rfl⟩ <;> decide

/-- R53, R93: an encoding is the opcode and the operand bytes, low byte first. -/
theorem test_encode :
    encode (.ldaAbsX 0x1234) = [0xBD, 0x34, 0x12] ∧ encode (.bne 0xFB) = [0xD0, 0xFB] ∧ encode .rts = [0x60] := by decide

/-! ### One step, from the vectors of 95_test_vectors.md -/

/-- The start state of a vector: the registers, the instruction bytes at PC and the other cells loaded by the host. -/
def boot (r : ResetInit) (program : List Byte) (cells : List (Addr × Byte)) : State :=
  cells.foldl (fun s c => s.poke c.1 c.2) ((State.reset.resetTo r).pokeAll r.pc program)

/-- The registers after a step. -/
def after (s : State) : Option ResetInit := (nextState? (step s)).map State.outputs

/-- The registers after a step, the live Break bit masked out (nothing is claimed of it after BRK and RTI, U9). -/
def afterButBreak (s : State) : Option ResetInit := (after s).map (fun r => { r with p := r.p &&& 0xEF })

/-- What some addresses read as after a step. -/
def readsAfter (s : State) (as : List Addr) : Option (List Byte) := (nextState? (step s)).map (fun t => as.map t.read)

/-- V-AM1: `LDA #$80`. -/
theorem test_V_AM1 :
    after (boot defaultInit [0xA9, 0x80] []) = some { defaultInit with pc := 0x8002, a := 0x80, p := 0xA0, cyc := 2 } := by decide

/-- V-AM3: `LDA $FF,X`. -/
theorem test_V_AM3 :
    after (boot { defaultInit with x := 0x02 } [0xB5, 0xFF] [(0x0001, 0x11), (0x0101, 0x22)]) = some { defaultInit with pc := 0x8002, a := 0x11, x := 0x02, cyc := 4 } := by decide

/-- V-AM4: `LDX $F0,Y`. -/
theorem test_V_AM4 :
    after (boot { defaultInit with y := 0x20 } [0xB6, 0xF0] [(0x0010, 0x44), (0x0110, 0x55)]) = some { defaultInit with pc := 0x8002, x := 0x44, y := 0x20, cyc := 4 } := by decide

/-- V-AM6: `LDA $06FF,X`. -/
theorem test_V_AM6 :
    after (boot { defaultInit with x := 0x01 } [0xBD, 0xFF, 0x06] [(0x0700, 0x5A)]) = some { defaultInit with pc := 0x8003, a := 0x5A, x := 0x01, cyc := 5 } := by decide

/-- V-AM9: `LDA $FFFF,X`. -/
theorem test_V_AM9 :
    after (boot { defaultInit with x := 0x02 } [0xBD, 0xFF, 0xFF] [(0x0001, 0x77)]) = some { defaultInit with pc := 0x8003, a := 0x77, x := 0x02, cyc := 5 } := by decide

/-- V-AM11: `LDA ($FE,X)`. -/
theorem test_V_AM11 :
    after (boot { defaultInit with x := 0x01 } [0xA1, 0xFE] [(0x00FF, 0x00), (0x0000, 0x03), (0x0100, 0x04), (0x0300, 0xAA), (0x0400, 0xBB)]) = some { defaultInit with pc := 0x8002, a := 0xAA, x := 0x01, p := 0xA0, cyc := 6 } := by decide

/-- V-AM12: `LDA ($F0,X)`. -/
theorem test_V_AM12 :
    after (boot { defaultInit with x := 0x20 } [0xA1, 0xF0] [(0x0010, 0x00), (0x0011, 0x05), (0x0500, 0x66)]) = some { defaultInit with pc := 0x8002, a := 0x66, x := 0x20, cyc := 6 } := by decide

/-- V-AM14: `LDA ($40),Y`. -/
theorem test_V_AM14 :
    after (boot { defaultInit with y := 0x10 } [0xB1, 0x40] [(0x0040, 0xF0), (0x0041, 0x06), (0x0700, 0x22)]) = some { defaultInit with pc := 0x8002, a := 0x22, y := 0x10, cyc := 6 } := by decide

/-- V-AM15: `LDA ($FF),Y`. -/
theorem test_V_AM15 :
    after (boot defaultInit [0xB1, 0xFF] [(0x00FF, 0x00), (0x0000, 0x05), (0x0100, 0x06), (0x0500, 0xC1), (0x0600, 0xC2)]) = some { defaultInit with pc := 0x8002, a := 0xC1, p := 0xA0, cyc := 5 } := by decide

/-- V-AM17: `STA ($40),Y`. -/
theorem test_V_AM17 :
    after (boot { defaultInit with a := 0x3D, y := 0x10 } [0x91, 0x40] [(0x0040, 0xF0), (0x0041, 0x06)]) = some { defaultInit with pc := 0x8002, a := 0x3D, y := 0x10, cyc := 6 } ∧
    readsAfter (boot { defaultInit with a := 0x3D, y := 0x10 } [0x91, 0x40] [(0x0040, 0xF0), (0x0041, 0x06)])
      [0x0700] = some [0x3D] := by decide

/-- V-AM19: `LDA $10`. -/
theorem test_V_AM19 :
    after (boot { defaultInit with pc := 0xFFFF } [0xA5, 0x10] [(0x0000, 0x10), (0x0010, 0x5D)]) = some { defaultInit with pc := 0x0001, a := 0x5D, cyc := 3 } := by decide

/-- V-AR2: `ADC #$90`. -/
theorem test_V_AR2 :
    after (boot { defaultInit with a := 0xD0 } [0x69, 0x90] []) = some { defaultInit with pc := 0x8002, a := 0x60, p := 0x61, cyc := 2 } := by decide

/-- V-AR6: `ADC #$01`. -/
theorem test_V_AR6 :
    after (boot { defaultInit with a := 0x09, p := 0x28 } [0x69, 0x01] []) = some { defaultInit with pc := 0x8002, a := 0x0A, p := 0x28, cyc := 2 } := by decide

/-- V-AR10: `SBC #$B0`. -/
theorem test_V_AR10 :
    after (boot { defaultInit with a := 0x50, p := 0x21 } [0xE9, 0xB0] []) = some { defaultInit with pc := 0x8002, a := 0xA0, p := 0xE0, cyc := 2 } := by decide

/-- V-AR13: `SBC #$01`. -/
theorem test_V_AR13 :
    after (boot { defaultInit with a := 0x05 } [0xE9, 0x01] []) = some { defaultInit with pc := 0x8002, a := 0x03, p := 0x21, cyc := 2 } := by decide

/-- V-AR21: `CMP #$00`. -/
theorem test_V_AR21 :
    after (boot { defaultInit with a := 0xFF } [0xC9, 0x00] []) = some { defaultInit with pc := 0x8002, a := 0xFF, p := 0xA1, cyc := 2 } := by decide

/-- V-AR22: `CMP #$01`. -/
theorem test_V_AR22 :
    after (boot { defaultInit with a := 0x80, p := 0x60 } [0xC9, 0x01] []) = some { defaultInit with pc := 0x8002, a := 0x80, p := 0x61, cyc := 2 } := by decide

/-- V-AR23: `CPX $10`. -/
theorem test_V_AR23 :
    after (boot { defaultInit with x := 0x22 } [0xE4, 0x10] [(0x0010, 0x22)]) = some { defaultInit with pc := 0x8002, x := 0x22, p := 0x23, cyc := 3 } := by decide

/-- V-AR24: `CPY #$10`. -/
theorem test_V_AR24 :
    after (boot defaultInit [0xC0, 0x10] []) = some { defaultInit with pc := 0x8002, p := 0xA0, cyc := 2 } := by decide

/-- V-SH3: `ASL A`. -/
theorem test_V_SH3 :
    after (boot { defaultInit with a := 0x01, p := 0x21 } [0x0A] []) = some { defaultInit with pc := 0x8001, a := 0x02, cyc := 2 } := by decide

/-- V-SH5: `LSR A`. -/
theorem test_V_SH5 :
    after (boot { defaultInit with a := 0xFF } [0x4A] []) = some { defaultInit with pc := 0x8001, a := 0x7F, p := 0x21, cyc := 2 } := by decide

/-- V-SH6: `ROL A`. -/
theorem test_V_SH6 :
    after (boot { defaultInit with a := 0x80, p := 0x21 } [0x2A] []) = some { defaultInit with pc := 0x8001, a := 0x01, p := 0x21, cyc := 2 } := by decide

/-- V-SH8: `ROR A`. -/
theorem test_V_SH8 :
    after (boot { defaultInit with a := 0x01, p := 0x21 } [0x6A] []) = some { defaultInit with pc := 0x8001, a := 0x80, p := 0xA1, cyc := 2 } := by decide

/-- V-SH11: `ROL $10,X`. -/
theorem test_V_SH11 :
    after (boot { defaultInit with x := 0xF8, p := 0x21 } [0x36, 0x10] [(0x0008, 0x7F)]) = some { defaultInit with pc := 0x8002, x := 0xF8, p := 0xA0, cyc := 6 } ∧
    readsAfter (boot { defaultInit with x := 0xF8, p := 0x21 } [0x36, 0x10] [(0x0008, 0x7F)])
      [0x0008] = some [0xFF] := by decide

/-- V-SH12: `LSR $0234`. -/
theorem test_V_SH12 :
    after (boot defaultInit [0x4E, 0x34, 0x02] [(0x0234, 0x02)]) = some { defaultInit with pc := 0x8003, cyc := 6 } ∧
    readsAfter (boot defaultInit [0x4E, 0x34, 0x02] [(0x0234, 0x02)])
      [0x0234] = some [0x01] := by decide

/-- V-SH13: `ROR $06FF,X`. -/
theorem test_V_SH13 :
    after (boot { defaultInit with x := 0x01, p := 0x21 } [0x7E, 0xFF, 0x06] [(0x0700, 0x00)]) = some { defaultInit with pc := 0x8003, x := 0x01, p := 0xA0, cyc := 7 } ∧
    readsAfter (boot { defaultInit with x := 0x01, p := 0x21 } [0x7E, 0xFF, 0x06] [(0x0700, 0x00)])
      [0x0700] = some [0x80] := by decide

/-- V-SH14: `ASL $9000`. -/
theorem test_V_SH14 :
    after (boot defaultInit [0x0E, 0x00, 0x90] [(0x9000, 0x81)]) = some { defaultInit with pc := 0x8003, p := 0x21, cyc := 6 } ∧
    readsAfter (boot defaultInit [0x0E, 0x00, 0x90] [(0x9000, 0x81)])
      [0x9000] = some [0x81] := by decide

/-- V-CT1: `JMP $1234`. -/
theorem test_V_CT1 :
    after (boot defaultInit [0x4C, 0x34, 0x12] []) = some { defaultInit with pc := 0x1234, cyc := 3 } := by decide

/-- V-CT3: `JMP ($02FF)`. -/
theorem test_V_CT3 :
    after (boot defaultInit [0x6C, 0xFF, 0x02] [(0x02FF, 0x40), (0x0200, 0x80), (0x0300, 0x50)]) = some { defaultInit with pc := 0x8040, cyc := 5 } := by decide

/-- V-CT5: `JSR $9000`. -/
theorem test_V_CT5 :
    after (boot defaultInit [0x20, 0x00, 0x90] []) = some { defaultInit with pc := 0x9000, sp := 0xFB, cyc := 6 } ∧
    readsAfter (boot defaultInit [0x20, 0x00, 0x90] [])
      [0x01FD, 0x01FC] = some [0x80, 0x02] := by decide

/-- V-CT6: `RTS`. -/
theorem test_V_CT6 :
    after (boot { defaultInit with pc := 0x9000, sp := 0xFB } [0x60] [(0x01FC, 0x02), (0x01FD, 0x80)]) = some { defaultInit with pc := 0x8003, cyc := 6 } := by decide

/-- V-CT7: `JSR $9000`. -/
theorem test_V_CT7 :
    after (boot { defaultInit with sp := 0x00 } [0x20, 0x00, 0x90] []) = some { defaultInit with pc := 0x9000, sp := 0xFE, cyc := 6 } ∧
    readsAfter (boot { defaultInit with sp := 0x00 } [0x20, 0x00, 0x90] [])
      [0x0100, 0x01FF] = some [0x80, 0x02] := by decide

/-- V-CT8: `RTS`. -/
theorem test_V_CT8 :
    after (boot { defaultInit with pc := 0x9000, sp := 0xFB } [0x60] [(0x01FC, 0xFF), (0x01FD, 0xFF)]) = some { defaultInit with pc := 0x0000, cyc := 6 } := by decide

/-- V-CT9: `BNE *+6`. -/
theorem test_V_CT9 :
    after (boot { defaultInit with p := 0x22 } [0xD0, 0x04] []) = some { defaultInit with pc := 0x8002, p := 0x22, cyc := 2 } := by decide

/-- V-CT11: `BEQ *+6`. -/
theorem test_V_CT11 :
    after (boot { defaultInit with pc := 0x80FD, p := 0x22 } [0xF0, 0x04] []) = some { defaultInit with pc := 0x8103, p := 0x22, cyc := 4 } := by decide

/-- V-CT12: `BCC *-2`. -/
theorem test_V_CT12 :
    after (boot { defaultInit with pc := 0x8100 } [0x90, 0xFC] []) = some { defaultInit with pc := 0x80FE, cyc := 4 } := by decide

/-- V-CT14: `BPL *+129`. -/
theorem test_V_CT14 :
    after (boot defaultInit [0x10, 0x7F] []) = some { defaultInit with pc := 0x8081, cyc := 3 } := by decide

/-- V-CT15: `BMI *-126`. -/
theorem test_V_CT15 :
    after (boot { defaultInit with p := 0xA0 } [0x30, 0x80] []) = some { defaultInit with pc := 0x7F82, p := 0xA0, cyc := 4 } := by decide

/-- V-CT16: `BCS *+2`. -/
theorem test_V_CT16 :
    after (boot { defaultInit with p := 0x21 } [0xB0, 0x00] []) = some { defaultInit with pc := 0x8002, p := 0x21, cyc := 3 } := by decide

/-- V-CT17: `BCS *+4`. -/
theorem test_V_CT17 :
    after (boot defaultInit [0xB0, 0x02] []) = some { defaultInit with pc := 0x8002, cyc := 2 } := by decide

/-- V-CT18: `BVS *+4`. -/
theorem test_V_CT18 :
    after (boot { defaultInit with p := 0x60 } [0x70, 0x02] []) = some { defaultInit with pc := 0x8004, p := 0x60, cyc := 3 } := by decide

/-- V-CT19: `BVC *+4`. -/
theorem test_V_CT19 :
    after (boot { defaultInit with p := 0x60 } [0x50, 0x02] []) = some { defaultInit with pc := 0x8002, p := 0x60, cyc := 2 } := by decide

/-- V-CT20: `BVC *+4`. -/
theorem test_V_CT20 :
    after (boot defaultInit [0x50, 0x02] []) = some { defaultInit with pc := 0x8004, cyc := 3 } := by decide

/-- V-CT22: `BPL *+4`. -/
theorem test_V_CT22 :
    after (boot { defaultInit with p := 0xA0 } [0x10, 0x02] []) = some { defaultInit with pc := 0x8002, p := 0xA0, cyc := 2 } := by decide

/-- V-CT21: `BMI *+4`. -/
theorem test_V_CT21 :
    after (boot defaultInit [0x30, 0x02] []) = some { defaultInit with pc := 0x8002, cyc := 2 } := by decide

/-- V-CT23: `BEQ *+4`. -/
theorem test_V_CT23 :
    after (boot defaultInit [0xF0, 0x02] []) = some { defaultInit with pc := 0x8002, cyc := 2 } := by decide

/-- V-CT24: `BCC *+4`. -/
theorem test_V_CT24 :
    after (boot { defaultInit with p := 0x21 } [0x90, 0x02] []) = some { defaultInit with pc := 0x8002, p := 0x21, cyc := 2 } := by decide

/-- V-CT25: `BNE *+5`. -/
theorem test_V_CT25 :
    after (boot { defaultInit with pc := 0x80FE } [0xD0, 0x03] []) = some { defaultInit with pc := 0x8103, cyc := 3 } := by decide

/-- V-ST2: `BRK`. -/
theorem test_V_ST2 :
    afterButBreak (boot { defaultInit with pc := 0xC000, p := 0x24 } [0x00] [(0xFFFE, 0x00), (0xFFFF, 0x80)]) = some { defaultInit with pc := 0xC001, p := 0x24, cyc := 7 } := by decide

/-- V-ST3: `BRK`. -/
theorem test_V_ST3 :
    afterButBreak (boot { defaultInit with pc := 0xC000, p := 0xE9 } [0x00] [(0xFFFE, 0x34), (0xFFFF, 0x92)]) = some { defaultInit with pc := 0x9234, sp := 0xFA, p := 0xED, cyc := 7 } ∧
    readsAfter (boot { defaultInit with pc := 0xC000, p := 0xE9 } [0x00] [(0xFFFE, 0x34), (0xFFFF, 0x92)])
      [0x01FD, 0x01FC, 0x01FB] = some [0xC0, 0x01, 0xF9] := by decide

/-- V-ST4: `RTI`. -/
theorem test_V_ST4 :
    afterButBreak (boot { defaultInit with sp := 0xFA, p := 0x24 } [0x40] [(0x01FB, 0x30), (0x01FC, 0x01), (0x01FD, 0xC0)]) = some { defaultInit with pc := 0xC001, cyc := 7 } := by decide

/-- V-ST5: `RTI`. -/
theorem test_V_ST5 :
    afterButBreak (boot { defaultInit with sp := 0xFA, p := 0xFF } [0x40] [(0x01FB, 0x00), (0x01FC, 0x34), (0x01FD, 0x12)]) = some { defaultInit with pc := 0x1234, cyc := 7 } := by decide

/-- V-ST7: `PLA`. -/
theorem test_V_ST7 :
    after (boot { defaultInit with a := 0x55, sp := 0xFC } [0x68] [(0x01FD, 0x00)]) = some { defaultInit with pc := 0x8001, p := 0x22, cyc := 4 } := by decide

/-- V-ST6: `PHA`. -/
theorem test_V_ST6 :
    after (boot { defaultInit with a := 0x80 } [0x48] []) = some { defaultInit with pc := 0x8001, a := 0x80, sp := 0xFC, cyc := 3 } ∧
    readsAfter (boot { defaultInit with a := 0x80 } [0x48] [])
      [0x01FD] = some [0x80] := by decide

/-- V-ST10: `PHP`. -/
theorem test_V_ST10 :
    after (boot { defaultInit with p := 0xE3 } [0x08] []) = some { defaultInit with pc := 0x8001, sp := 0xFC, p := 0xE3, cyc := 3 } ∧
    readsAfter (boot { defaultInit with p := 0xE3 } [0x08] [])
      [0x01FD] = some [0xF3] := by decide

/-- V-ST11: `PLP`. -/
theorem test_V_ST11 :
    after (boot { defaultInit with sp := 0xFC } [0x28] [(0x01FD, 0xFF)]) = some { defaultInit with pc := 0x8001, p := 0xEF, cyc := 4 } := by decide

/-- V-ST13: `PHA`. -/
theorem test_V_ST13 :
    after (boot { defaultInit with a := 0x12, sp := 0x00 } [0x48] []) = some { defaultInit with pc := 0x8001, a := 0x12, sp := 0xFF, cyc := 3 } ∧
    readsAfter (boot { defaultInit with a := 0x12, sp := 0x00 } [0x48] [])
      [0x0100] = some [0x12] := by decide

/-- V-ST14: `PLA`. -/
theorem test_V_ST14 :
    after (boot { defaultInit with sp := 0xFF } [0x68] [(0x0100, 0x34)]) = some { defaultInit with pc := 0x8001, a := 0x34, sp := 0x00, cyc := 4 } := by decide

/-- V-LS3: `LDY $10,X`. -/
theorem test_V_LS3 :
    after (boot { defaultInit with x := 0x01 } [0xB4, 0x10] [(0x0011, 0x7F)]) = some { defaultInit with pc := 0x8002, x := 0x01, y := 0x7F, cyc := 4 } := by decide

/-- V-LS4: `LDX $06FF,Y`. -/
theorem test_V_LS4 :
    after (boot { defaultInit with y := 0x01 } [0xBE, 0xFF, 0x06] [(0x0700, 0x01)]) = some { defaultInit with pc := 0x8003, x := 0x01, y := 0x01, cyc := 5 } := by decide

/-- V-LS5: `LDY $06FF,X`. -/
theorem test_V_LS5 :
    after (boot { defaultInit with x := 0x01 } [0xBC, 0xFF, 0x06] [(0x0700, 0x80)]) = some { defaultInit with pc := 0x8003, x := 0x01, y := 0x80, p := 0xA0, cyc := 5 } := by decide

/-- V-LS6: `STA $10`. -/
theorem test_V_LS6 :
    after (boot { defaultInit with a := 0x08, p := 0x22 } [0x85, 0x10] []) = some { defaultInit with pc := 0x8002, a := 0x08, p := 0x22, cyc := 3 } ∧
    readsAfter (boot { defaultInit with a := 0x08, p := 0x22 } [0x85, 0x10] [])
      [0x0010] = some [0x08] := by decide

/-- V-LS7: `STA $9000`. -/
theorem test_V_LS7 :
    after (boot { defaultInit with a := 0x77 } [0x8D, 0x00, 0x90] [(0x9000, 0x11)]) = some { defaultInit with pc := 0x8003, a := 0x77, cyc := 4 } ∧
    readsAfter (boot { defaultInit with a := 0x77 } [0x8D, 0x00, 0x90] [(0x9000, 0x11)])
      [0x9000] = some [0x11] := by decide

/-- V-LS8: `STA $0810`. -/
theorem test_V_LS8 :
    after (boot { defaultInit with a := 0x66 } [0x8D, 0x10, 0x08] []) = some { defaultInit with pc := 0x8003, a := 0x66, cyc := 4 } ∧
    readsAfter (boot { defaultInit with a := 0x66 } [0x8D, 0x10, 0x08] [])
      [0x0010] = some [0x66] := by decide

/-- V-LS11: `LDA $3FFF`. -/
theorem test_V_LS11 :
    after (boot defaultInit [0xAD, 0xFF, 0x3F] [(0x2007, 0x63)]) = some { defaultInit with pc := 0x8003, a := 0x63, cyc := 4 } := by decide

/-- V-LS12: `STX $10,Y`. -/
theorem test_V_LS12 :
    after (boot { defaultInit with x := 0x99, y := 0xF0 } [0x96, 0x10] []) = some { defaultInit with pc := 0x8002, x := 0x99, y := 0xF0, cyc := 4 } ∧
    readsAfter (boot { defaultInit with x := 0x99, y := 0xF0 } [0x96, 0x10] [])
      [0x0000] = some [0x99] := by decide

/-- V-LS13: `STY $4017`. -/
theorem test_V_LS13 :
    after (boot { defaultInit with y := 0x40 } [0x8C, 0x17, 0x40] []) = some { defaultInit with pc := 0x8003, y := 0x40, cyc := 4 } ∧
    readsAfter (boot { defaultInit with y := 0x40 } [0x8C, 0x17, 0x40] [])
      [0x4017] = some [0x40] := by decide

/-- V-LS15: `TAX`. -/
theorem test_V_LS15 :
    after (boot { defaultInit with x := 0x55 } [0xAA] []) = some { defaultInit with pc := 0x8001, p := 0x22, cyc := 2 } := by decide

/-- V-LS16: `TAY`. -/
theorem test_V_LS16 :
    after (boot { defaultInit with a := 0x80 } [0xA8] []) = some { defaultInit with pc := 0x8001, a := 0x80, y := 0x80, p := 0xA0, cyc := 2 } := by decide

/-- V-LS17: `TXA`. -/
theorem test_V_LS17 :
    after (boot { defaultInit with a := 0x80, x := 0x7F, p := 0xA0 } [0x8A] []) = some { defaultInit with pc := 0x8001, a := 0x7F, x := 0x7F, cyc := 2 } := by decide

/-- V-LS18: `TYA`. -/
theorem test_V_LS18 :
    after (boot { defaultInit with a := 0x01 } [0x98] []) = some { defaultInit with pc := 0x8001, p := 0x22, cyc := 2 } := by decide

/-- V-LS19: `TSX`. -/
theorem test_V_LS19 :
    after (boot defaultInit [0xBA] []) = some { defaultInit with pc := 0x8001, x := 0xFD, p := 0xA0, cyc := 2 } := by decide

/-- V-LS20: `TXS`. -/
theorem test_V_LS20 :
    after (boot { defaultInit with p := 0xA0 } [0x9A] []) = some { defaultInit with pc := 0x8001, sp := 0x00, p := 0xA0, cyc := 2 } := by decide

/-- V-LG1: `AND #$0F`. -/
theorem test_V_LG1 :
    after (boot { defaultInit with a := 0xF0 } [0x29, 0x0F] []) = some { defaultInit with pc := 0x8002, p := 0x22, cyc := 2 } := by decide

/-- V-LG3: `ORA #$80`. -/
theorem test_V_LG3 :
    after (boot { defaultInit with a := 0x01 } [0x09, 0x80] []) = some { defaultInit with pc := 0x8002, a := 0x81, p := 0xA0, cyc := 2 } := by decide

/-- V-LG6: `EOR #$FF`. -/
theorem test_V_LG6 :
    after (boot { defaultInit with a := 0x7F } [0x49, 0xFF] []) = some { defaultInit with pc := 0x8002, a := 0x80, p := 0xA0, cyc := 2 } := by decide

/-- V-LG7: `BIT $10`. -/
theorem test_V_LG7 :
    after (boot { defaultInit with a := 0x01 } [0x24, 0x10] [(0x0010, 0xC0)]) = some { defaultInit with pc := 0x8002, a := 0x01, p := 0xE2, cyc := 3 } := by decide

/-- V-LG8: `BIT $0234`. -/
theorem test_V_LG8 :
    after (boot { defaultInit with a := 0xFF, p := 0xE0 } [0x2C, 0x34, 0x02] [(0x0234, 0x3F)]) = some { defaultInit with pc := 0x8003, a := 0xFF, cyc := 4 } := by decide

/-- V-LG9: `INC $10`. -/
theorem test_V_LG9 :
    after (boot defaultInit [0xE6, 0x10] [(0x0010, 0xFF)]) = some { defaultInit with pc := 0x8002, p := 0x22, cyc := 5 } ∧
    readsAfter (boot defaultInit [0xE6, 0x10] [(0x0010, 0xFF)])
      [0x0010] = some [0x00] := by decide

/-- V-LG12: `DEC $06FF,X`. -/
theorem test_V_LG12 :
    after (boot { defaultInit with x := 0x01 } [0xDE, 0xFF, 0x06] [(0x0700, 0x01)]) = some { defaultInit with pc := 0x8003, x := 0x01, p := 0x22, cyc := 7 } ∧
    readsAfter (boot { defaultInit with x := 0x01 } [0xDE, 0xFF, 0x06] [(0x0700, 0x01)])
      [0x0700] = some [0x00] := by decide

/-- V-LG11: `DEC $10`. -/
theorem test_V_LG11 :
    after (boot defaultInit [0xC6, 0x10] [(0x0010, 0x00)]) = some { defaultInit with pc := 0x8002, p := 0xA0, cyc := 5 } ∧
    readsAfter (boot defaultInit [0xC6, 0x10] [(0x0010, 0x00)])
      [0x0010] = some [0xFF] := by decide

/-- V-LG13: `INX`. -/
theorem test_V_LG13 :
    after (boot { defaultInit with x := 0xFF } [0xE8] []) = some { defaultInit with pc := 0x8001, p := 0x22, cyc := 2 } := by decide

/-- V-LG14: `INY`. -/
theorem test_V_LG14 :
    after (boot { defaultInit with y := 0x7F } [0xC8] []) = some { defaultInit with pc := 0x8001, y := 0x80, p := 0xA0, cyc := 2 } := by decide

/-- V-LG15: `DEX`. -/
theorem test_V_LG15 :
    after (boot defaultInit [0xCA] []) = some { defaultInit with pc := 0x8001, x := 0xFF, p := 0xA0, cyc := 2 } := by decide

/-- V-LG16: `DEY`. -/
theorem test_V_LG16 :
    after (boot { defaultInit with y := 0x01 } [0x88] []) = some { defaultInit with pc := 0x8001, p := 0x22, cyc := 2 } := by decide

/-- V-LG17: `CLC`. -/
theorem test_V_LG17 :
    after (boot { defaultInit with p := 0xFF } [0x18] []) = some { defaultInit with pc := 0x8001, p := 0xFE, cyc := 2 } := by decide

/-- V-LG18: `SEC`. -/
theorem test_V_LG18 :
    after (boot defaultInit [0x38] []) = some { defaultInit with pc := 0x8001, p := 0x21, cyc := 2 } := by decide

/-- V-LG19: `CLI`. -/
theorem test_V_LG19 :
    after (boot { defaultInit with p := 0xFF } [0x58] []) = some { defaultInit with pc := 0x8001, p := 0xFB, cyc := 2 } := by decide

/-- V-LG20: `SEI`. -/
theorem test_V_LG20 :
    after (boot defaultInit [0x78] []) = some { defaultInit with pc := 0x8001, p := 0x24, cyc := 2 } := by decide

/-- V-LG21: `CLV`. -/
theorem test_V_LG21 :
    after (boot { defaultInit with p := 0xFF } [0xB8] []) = some { defaultInit with pc := 0x8001, p := 0xBF, cyc := 2 } := by decide

/-- V-LG22: `CLD`. -/
theorem test_V_LG22 :
    after (boot { defaultInit with p := 0xFF } [0xD8] []) = some { defaultInit with pc := 0x8001, p := 0xF7, cyc := 2 } := by decide

/-- V-LG23: `SED`. -/
theorem test_V_LG23 :
    after (boot defaultInit [0xF8] []) = some { defaultInit with pc := 0x8001, p := 0x28, cyc := 2 } := by decide

/-- V-LG24: `NOP`. -/
theorem test_V_LG24 :
    after (boot { defaultInit with a := 0x01, x := 0x02, y := 0x03, p := 0xE3 } [0xEA] []) = some { defaultInit with pc := 0x8001, a := 0x01, x := 0x02, y := 0x03, p := 0xE3, cyc := 2 } := by decide

/-! ### The error outcomes and the parameters -/

/-- The fault a step ends with. -/
def faultOf (s : State) : Option Fault :=
  match step s with
  | .next _ => none
  | .fault f => some f
  | .refused _ => none

/-- V-EX1, V-EX4: an illegal opcode ends the step with UnsupportedOpcode. -/
theorem test_V_EX1_V_EX4 :
    faultOf (boot { defaultInit with a := 0x01, x := 0x02, y := 0x03, p := 0xE3, cyc := 100 } [0x02] []) =
      some (.unsupportedOpcode 0x02) ∧
    faultOf (boot { defaultInit with a := 0x05, p := 0x21 } [0xEB, 0x01] []) = some (.unsupportedOpcode 0xEB) := by decide

/-- A state with other parameters. -/
def withConfig (c : Config) (s : State) : State := { s with cfg := c }

/-- V-AM9: with `ADDR_OVERFLOW = fault` the indexed sum is reported un-reduced. -/
theorem test_V_AM9_fault :
    faultOf (withConfig { recommendedConfig with addrOverflow := .fault }
      (boot { defaultInit with x := 0x02 } [0xBD, 0xFF, 0xFF] [(0x0001, 0x77)])) = some (.unmappedAddress 0x10001) := by decide

/-- R56, R312: an operand byte above `$FFFF` is reported with `ADDR_OVERFLOW = fault` (V-AM19 is the other case). -/
theorem test_operand_fetch_fault :
    faultOf (withConfig { recommendedConfig with addrOverflow := .fault }
      (boot { defaultInit with pc := 0xFFFF } [0xA5, 0x10] [])) = some (.unmappedAddress 0x10000) := by decide

/-- V-AM11, V-AM15: with `ZP_POINTER_WRAP = false` the second pointer byte comes from `$0100`. -/
theorem test_V_AM11_V_AM15_no_wrap :
    after (withConfig { recommendedConfig with zpPointerWrap := false }
      (boot { defaultInit with x := 0x01 } [0xA1, 0xFE]
        [(0x00FF, 0x00), (0x0000, 0x03), (0x0100, 0x04), (0x0300, 0xAA), (0x0400, 0xBB)])) =
      some { defaultInit with pc := 0x8002, a := 0xBB, x := 0x01, p := 0xA0, cyc := 6 } ∧
    after (withConfig { recommendedConfig with zpPointerWrap := false }
      (boot defaultInit [0xB1, 0xFF] [(0x00FF, 0x00), (0x0000, 0x05), (0x0100, 0x06), (0x0500, 0xC1), (0x0600, 0xC2)])) =
      some { defaultInit with pc := 0x8002, a := 0xC2, p := 0xA0, cyc := 5 } := by decide

/-- R136, R137 (D10): with `RMW_PAGE_PENALTY = true` the case of V-SH13 takes 8 cycles. -/
theorem test_V_SH13_penalty :
    after (withConfig { recommendedConfig with rmwPagePenalty := true }
      (boot { defaultInit with x := 0x01, p := 0x21 } [0x7E, 0xFF, 0x06] [])) =
      some { defaultInit with pc := 0x8003, x := 0x01, p := 0xA0, cyc := 8 } := by decide

/-- R220 (D4, D6): a skipped BRK advances by the two parameters. -/
theorem test_V_ST2_parameters :
    after (withConfig { recommendedConfig with brkLength := 2, brkSkippedCycles := 2 }
      (boot { defaultInit with pc := 0xC000, p := 0x24 } [0x00] [])) =
      some { defaultInit with pc := 0xC002, p := 0x24, cyc := 2 } := by decide

/-- S4: on flat memory the high byte of the target comes from `$3000`, not `$3100`. -/
theorem test_S4_flat_memory :
    after (State.pokeAll (withConfig { recommendedConfig with memoryMap := .flat } State.reset) 0x8000 [0x6C, 0xFF, 0x30]
      |>.poke 0x30FF 0x40 |>.poke 0x3000 0x80 |>.poke 0x3100 0x50) =
      some { defaultInit with pc := 0x8040, cyc := 5 } := by decide

/-- A table of three rows: NOP under two opcodes at different base cycles, and LDA Immediate. -/
def smallTable : InstructionTable :=
  [⟨0x02, .nop, .imp, 1, 3, false⟩, ⟨0xEA, .nop, .imp, 1, 9, false⟩, ⟨0x03, .lda, .imm, 2, 4, false⟩]

/-- R6, R94, R98: the step looks the opcode up in the machine's own table, and takes the base cycles of that opcode's row; an opcode
the table lacks, or whose row is ill formed, is unsupported. -/
theorem test_table_is_a_parameter :
    after (withConfig { recommendedConfig with table := smallTable } (boot defaultInit [0x02] [])) =
      some { defaultInit with pc := 0x8001, cyc := 3 } ∧
    after (withConfig { recommendedConfig with table := smallTable } (boot defaultInit [0xEA] [])) =
      some { defaultInit with pc := 0x8001, cyc := 9 } ∧
    after (withConfig { recommendedConfig with table := smallTable } (boot defaultInit [0x03, 0x80] [])) =
      some { defaultInit with pc := 0x8002, a := 0x80, p := 0xA0, cyc := 4 } ∧
    faultOf (withConfig { recommendedConfig with table := smallTable } (boot defaultInit [0xA9] [])) =
      some (.unsupportedOpcode 0xA9) ∧
    faultOf (withConfig { recommendedConfig with table := [⟨0xAD, .lda, .abs, 2, 4, false⟩] } (boot defaultInit [0xAD] [])) =
      some (.unsupportedOpcode 0xAD) := by decide

/-- R90, R93: the bytes of an instruction under that table. -/
theorem test_encodeWith :
    encodeWith smallTable (.ldaImm 0x80) = some [0x03, 0x80] ∧ encodeWith smallTable .nop = some [0x02] ∧
    encodeWith smallTable .tax = none ∧ decodeWith smallTable [0x03, 0x80] = .ok (.ldaImm 0x80, []) := by
  refine ⟨?_, ?_, ?_, rfl⟩ <;> decide

/-- R4, R6: over a substitute memory an instruction completes; its reads and writes are that memory's own. -/
theorem test_substitute_memory (n : Nat) :
    (nextState? (exec .pha (withConfig { recommendedConfig with memoryMap := .substitute n } State.reset))).map
        State.mem = some (Memory.storeAll [] (Config.substituteWrite n [] (stackAddr 0xFD) 0x00)) ∧
    (nextState? (exec (.ldaZp 0x10) (withConfig { recommendedConfig with memoryMap := .substitute n } State.reset))).map
        State.a = some (Config.substituteRead n [] 0x0010) := ⟨rfl, rfl⟩

/-- The step after reset runs the word the host places (R70), on a three-byte and a one-byte row. -/
theorem test_withFetchWord :
    after (State.reset.withFetchWord 24 0x123420) = some { defaultInit with pc := 0x1234, sp := 0xFB, cyc := 6 } ∧
    after (State.reset.withFetchWord 8 0xEA) = some { defaultInit with pc := 0x8001, cyc := 2 } := by decide

/-! ### Witnesses: a concrete state and operands meet the hypotheses of each obligation -/

theorem witness_DecodeOfEncode : (Instr.staAbsX 0x1234).wellFormed = true ∧ Instr.brk.wellFormed = true ∧
    encodeWith smallTable (.ldaImm 0x80) = some [0x03, 0x80] := by decide

theorem witness_EncodeOfDecode : decode [0x9D, 0x34, 0x12, 0xEA] = .ok (.staAbsX 0x1234, [0xEA]) ∧
    decodeWith smallTable [0x03, 0x80, 0x02] = .ok (.ldaImm 0x80, [0x02]) := ⟨rfl, rfl⟩

theorem witness_IllegalOpcodesAreThe105 : 
    describe standardTable 0x02 = none ∧ (0x02 : Byte) ∈ illegalOpcodes ∧ (0x01 : Byte) ∉ illegalOpcodes := by
  decide

theorem witness_IllegalOpcodeStopsStep :
    faultOf (boot defaultInit [0x02] []) = some (.unsupportedOpcode 0x02) ∧ (0x02 : Byte) ∈ illegalOpcodes ∧
    (boot defaultInit [0x02] []).cfg.table = standardTable := ⟨by decide, by decide, rfl⟩

theorem witness_StepRunsDecodedInstruction :
    ∃ s : State, s.cfg.addrOverflow = .fault ∧
      decodeWith s.cfg.table [s.read s.pc, s.read (s.pc + 1), s.read (s.pc + 2)] = .ok (.ldaZp 0x10, [0x00]) ∧
      fits s (s.pc.toNat + ((Instr.ldaZp 0x10).desc.bytes - 1)) :=
  ⟨withConfig { recommendedConfig with addrOverflow := .fault } (boot { defaultInit with pc := 0xFFFE } [0xA5, 0x10] []),
    rfl, rfl, by decide⟩

/-- The last address at which a two-byte row still fits, under the default table and another one. -/
theorem witness_StepTakesItsRowFromTheTable :
    ∃ s u : State, s.cfg.addrOverflow = .fault ∧ describe s.cfg.table (s.read s.pc) = some ⟨0xA5, .lda, .zp, 2, 3, false⟩ ∧
      fits s (s.pc.toNat + (2 - 1)) ∧ describe u.cfg.table (u.read u.pc) = some ⟨0x03, .lda, .imm, 2, 4, false⟩ :=
  ⟨withConfig { recommendedConfig with addrOverflow := .fault } (boot { defaultInit with pc := 0xFFFE } [0xA5, 0x10] []),
    withConfig { recommendedConfig with table := smallTable } (boot defaultInit [0x03] []), rfl, by decide, by decide, by decide⟩

theorem witness_FetchPastTopOfMemoryFaults :
    ∃ s : State, s.cfg.addrOverflow = .fault ∧ describe s.cfg.table (s.read s.pc) = some ⟨0xA5, .lda, .zp, 2, 3, false⟩ ∧
      0xFFFF < s.pc.toNat + (2 - 1) :=
  ⟨withConfig { recommendedConfig with addrOverflow := .fault } (boot { defaultInit with pc := 0xFFFF } [0xA5, 0x10] []),
    rfl, by decide, by decide⟩

theorem witness_RamIsMirroredFourTimes :
    State.reset.cfg.memoryMap = .reference ∧ State.reset.mem.wf .reference = true ∧ (0x1FFF : Addr).toNat < 0x2000 := by decide

theorem witness_PpuWindowIsEightCells :
    State.reset.cfg.memoryMap = .reference ∧ State.reset.mem.wf .reference = true ∧
    0x2000 ≤ (0x2000 : Addr).toNat ∧ (0x3FFF : Addr).toNat < 0x4000 := by decide

theorem witness_IoExpansionAndSaveRamAreDirect :
    State.reset.cfg.memoryMap = .reference ∧ State.reset.mem.wf .reference = true ∧
    0x4000 ≤ (0x4000 : Addr).toNat ∧ (0x7FFF : Addr).toNat < 0x8000 := by decide

theorem witness_RomWriteIsDiscarded :
    State.reset.cfg.memoryMap = .reference ∧ State.reset.mem.wf .reference = true ∧ 0x8000 ≤ (0x8000 : Addr).toNat := by decide

theorem witness_NoInstructionChangesRom :
    State.reset.cfg.memoryMap = .reference ∧ (nextState? (exec (.staAbs 0x8000) State.reset)).isSome = true ∧
    0x8000 ≤ (0x8000 : Addr).toNat := by decide

theorem witness_PushThenPull :
    hasCells State.reset.cfg.memoryMap = true ∧ State.reset.mem.wf State.reset.cfg.memoryMap = true ∧
    cellOf State.reset.cfg.memoryMap 0x0100 ≠ 0x100 + State.reset.sp.toNat := by decide

/-- Boundary values of the three modes: the last address of page zero, with and without a wrap. -/
theorem witness_ZeroPageModesWrapInPageZero :
    effAddr (.zp 0xFF) State.reset = 0x00FF ∧
    effAddr (.zpX 0xFF) (boot { defaultInit with x := 0x01 } [] []) = 0x0000 ∧
    effAddr (.zpY 0xFE) (boot { defaultInit with y := 0x01 } [] []) = 0x00FF ∧
    (Instr.ldxZpY 0).desc.operand = .mem (.zpY 0) := by decide

/-- Boundary values of the indexed modes: no crossing at the last byte of a page, a crossing one further. -/
theorem witness_AbsoluteModesCarryIntoThePage :
    crossed (.absX 0x06FE) (boot { defaultInit with x := 0x01 } [] []) = false ∧
    crossed (.absX 0x06FF) (boot { defaultInit with x := 0x01 } [] []) = true ∧
    crossed (.absY 0xFFFF) (boot { defaultInit with y := 0x01 } [] []) = true := by decide

/-- The pointer at `$FF` under both values of the parameter. -/
theorem witness_IndirectModesReadZeroPagePointers :
    effAddr (.indX 0xFE) (boot { defaultInit with x := 0x01 } [] [(0x00FF, 0x00), (0x0000, 0x03), (0x0100, 0x04)]) = 0x0300 ∧
    effAddr (.indY 0xFF) (withConfig { recommendedConfig with zpPointerWrap := false }
      (boot defaultInit [] [(0x00FF, 0x00), (0x0000, 0x03), (0x0100, 0x04)])) = 0x0400 := by decide

/-- The pointer at the end of a page and one before it. -/
theorem witness_IndirectTargetStaysInThePointersPage :
    (Instr.jmpInd 0x02FF).desc.operand = .ind 0x02FF ∧
    indirectTarget 0x02FF (boot defaultInit [] [(0x02FF, 0x40), (0x0200, 0x80), (0x0300, 0x50)]) = 0x8040 ∧
    indirectTarget 0x02FE (boot defaultInit [] [(0x02FE, 0x40), (0x02FF, 0x81), (0x0200, 0x80)]) = 0x8140 := by decide

/-- R137 at the boundary of a page on each path: a read, a store, a shift without and with the parameter, and an immediate. -/
theorem witness_PageCrossCyclesByPath :
    let s := boot { defaultInit with x := 0x01 } [] []
    let u := withConfig { recommendedConfig with rmwPagePenalty := true } s
    crossed (.absX 0x06FF) s = true ∧
    (Instr.adcAbsX 0x06FF).desc.mnemonic.path ≠ .control ∧ (Instr.adcAbsX 0x06FF).desc.mnemonic ≠ .brk ∧
    (nextState? (exec (.adcAbsX 0x06FF) s)).map State.cyc = some 5 ∧
    (nextState? (exec (.adcAbsX 0x06FE) s)).map State.cyc = some 4 ∧
    (nextState? (exec (.staAbsX 0x06FF) s)).map State.cyc = some 5 ∧
    (nextState? (exec (.aslAbsX 0x06FF) s)).map State.cyc = some 7 ∧
    (nextState? (exec (.aslAbsX 0x06FF) u)).map State.cyc = some 8 ∧
    (nextState? (exec (.aslAbsX 0x06FE) u)).map State.cyc = some 7 ∧
    (nextState? (exec (.adcImm 0x01) u)).map State.cyc = some 2 := by decide

/-- With the sums checked, an instruction that ends exactly at `$FFFF` runs clear. -/
theorem witness_runsClear_fault :
    runsClear .nop (withConfig { recommendedConfig with addrOverflow := .fault } (boot { defaultInit with pc := 0xFFFE } [] [])) :=
  ⟨trivial, by decide⟩

theorem witness_AdcResult :
    (Instr.adcAbsX 0x06FF).desc.mnemonic = .adc ∧
    operandValue (Instr.adcAbsX 0x06FF).desc.operand (boot { defaultInit with x := 0x01 } [] [(0x0700, 0x02)]) = some 0x02 ∧
    runsClear (.adcAbsX 0x06FF) (boot { defaultInit with x := 0x01 } [] [(0x0700, 0x02)]) :=
  ⟨rfl, by decide, runsClear_of_wrap rfl _⟩

theorem witness_SbcResult :
    (Instr.sbcImm 0x01).desc.mnemonic = .sbc ∧ operandValue (Instr.sbcImm 0x01).desc.operand State.reset = some 0x01 ∧
    runsClear (.sbcImm 0x01) State.reset := ⟨rfl, rfl, runsClear_of_wrap rfl _⟩

theorem witness_CompareResult :
    ((Instr.cmpImm 0x30).desc.mnemonic = .cmp ∧ (Instr.cpxZp 0x10).desc.mnemonic = .cpx ∧
      (Instr.cpyAbs 0x1234).desc.mnemonic = .cpy) ∧
    operandValue (Instr.cpxZp 0x10).desc.operand State.reset = some 0x00 ∧ runsClear (.cpxZp 0x10) State.reset :=
  ⟨by decide, by decide, runsClear_of_wrap rfl _⟩

theorem witness_DecimalFlagIsInert :
    (Instr.adcImm 0x01).desc.mnemonic ∉ [Mnemonic.php, .brk, .plp, .rti, .cld, .sed] := by decide

theorem witness_ShiftAccumulatorResult :
    Instr.rorAcc.desc.mnemonic ∈ [Mnemonic.asl, .lsr, .rol, .ror] ∧ Instr.rorAcc.desc.operand = .accumulator ∧
    runsClear .rorAcc State.reset := ⟨by decide, rfl, runsClear_of_wrap rfl _⟩

theorem witness_ShiftMemoryResult :
    (Instr.aslAbs 0x9000).desc.mnemonic ∈ [Mnemonic.asl, .lsr, .rol, .ror] ∧
    (Instr.aslAbs 0x9000).desc.operand = .mem (.abs 0x9000) ∧ runsClear (.aslAbs 0x9000) State.reset :=
  ⟨by decide, rfl, runsClear_of_wrap rfl _⟩

theorem witness_JsrResult :
    fits State.reset (State.reset.pc.toNat + 2) ∧ hasCells State.reset.cfg.memoryMap = true ∧
    State.reset.mem.wf State.reset.cfg.memoryMap = true := by decide

/-- The sum `$FFFE + 1` still fits with the sums checked. -/
theorem witness_RtsResult :
    ∃ s : State, s.cfg.addrOverflow = .fault ∧
      fits s ((s.read (stackAddr (s.sp + 1))).toNat + 256 * (s.read (stackAddr (s.sp + 2))).toNat + 1) :=
  ⟨withConfig { recommendedConfig with addrOverflow := .fault }
    (boot { defaultInit with sp := 0xFB } [] [(0x01FC, 0xFE), (0x01FD, 0xFF)]), rfl, by decide⟩

/-- A subroutine that has changed A, X, P, the pushed-over cells below and a byte of RAM; with the sums checked, a JSR whose return is
the last that fits. -/
theorem witness_RtsReturnsAfterJsr :
    ∃ s t w : State, hasCells s.cfg.memoryMap = true ∧ s.mem.wf s.cfg.memoryMap = true ∧ s.cfg.addrOverflow = .fault ∧
      exec (.jsr 0x9000) s = .next t ∧ w.cfg = t.cfg ∧ w.sp = t.sp ∧ w.a ≠ t.a ∧ w.mem ≠ t.mem ∧
      w.read (stackAddr s.sp) = t.read (stackAddr s.sp) ∧
      w.read (stackAddr (s.sp - 1)) = t.read (stackAddr (s.sp - 1)) ∧ fits s (s.pc.toNat + 3) := by
  let s := withConfig { recommendedConfig with addrOverflow := .fault } (boot { defaultInit with pc := 0xFFFC } [] [])
  let t := (((s.push (page (s.pc + 2))).push (lowByte (s.pc + 2))).setPc 0x9000).addCyc (baseCycles (Instr.jsr 0x9000).desc s)
  have h : exec (.jsr 0x9000) s = .next t := checked_of_fits (s := s) (sum := s.pc.toNat + 2) _ (by decide)
  exact ⟨s, t, ((t.poke 0x0010 0x77).poke 0x01FB 0x55).setA 0x42, by decide, by decide, rfl, h, rfl, rfl, by decide, by decide,
    by decide, by decide, by decide⟩

/-- Both clauses: BNE is not taken with Z set and taken with Z clear, with the sums checked. -/
theorem witness_BranchResult :
    branchTest (Instr.bne 0x7F).desc.mnemonic = some (.z, false) ∧ (Instr.bne 0x7F).desc.operand = .rel 0x7F ∧
    (∃ s : State, fits s (s.pc.toNat + 2) ∧ getFlag .z s.p ≠ false) ∧
    (∃ s : State, s.cfg.addrOverflow = .fault ∧ fits s (s.pc.toNat + 2) ∧ getFlag .z s.p = false ∧
      fits s ((s.pc.toNat : Int) + 2 + (0x7F : Byte).toInt).toNat) :=
  ⟨rfl, rfl, ⟨boot { defaultInit with p := 0x22 } [] [], by decide, by decide⟩,
    ⟨withConfig { recommendedConfig with addrOverflow := .fault } (boot { defaultInit with pc := 0xFF7E } [] []),
      rfl, by decide, by decide, by decide⟩⟩

theorem witness_BrkTakenEntersTheTrap :
    getFlag .i State.reset.p = false ∧ fits State.reset (State.reset.pc.toNat + 1) ∧
    hasCells State.reset.cfg.memoryMap = true ∧ State.reset.mem.wf State.reset.cfg.memoryMap = true := by decide

theorem witness_BrkSkippedWhileInterruptsDisabled :
    ∃ s : State, getFlag .i s.p = true ∧ fits s (s.pc.toNat + s.cfg.brkLength) :=
  ⟨boot { defaultInit with p := 0x24 } [] [], by decide, by decide⟩

/-- A handler that has changed A, the status and a byte of RAM. -/
theorem witness_RtiReturnsAfterBrk :
    ∃ s t w : State, getFlag .i s.p = false ∧ hasCells s.cfg.memoryMap = true ∧ s.mem.wf s.cfg.memoryMap = true ∧
      exec .brk s = .next t ∧ w.cfg = t.cfg ∧ w.sp = t.sp ∧ w.a ≠ t.a ∧ w.p ≠ t.p ∧ w.mem ≠ t.mem ∧
      (∀ k ∈ [s.sp, s.sp - 1, s.sp - 2], w.read (stackAddr k) = t.read (stackAddr k)) := by
  let s := boot { defaultInit with p := 0xE3 } [0x00] [(0xFFFE, 0x00), (0xFFFF, 0x90)]
  let t := (enterTrap s (s.pc + 1)).addCyc (baseCycles Instr.brk.desc s)
  have h : exec .brk s = .next t := (if_neg (by decide)).trans (checked_of_wrap _ rfl)
  exact ⟨s, t, ((t.poke 0x0010 0x77).setA 0x42).setP 0x20, by decide, by decide, by decide, h, rfl, rfl, by decide, by decide,
    by decide, by decide⟩

theorem witness_PushInstructionsResult :
    runsClear .pha State.reset ∧ runsClear .php State.reset ∧ hasCells State.reset.cfg.memoryMap = true ∧
    State.reset.mem.wf State.reset.cfg.memoryMap = true :=
  ⟨runsClear_of_wrap rfl _, runsClear_of_wrap rfl _, by decide, by decide⟩

theorem witness_PullInstructionsResult : runsClear .pla State.reset ∧ runsClear .plp State.reset :=
  ⟨runsClear_of_wrap rfl _, runsClear_of_wrap rfl _⟩

/-- A, X, P and a byte of RAM changed in between. -/
theorem witness_PlaRestoresPushedAccumulator :
    ∃ s t w : State, hasCells s.cfg.memoryMap = true ∧ s.mem.wf s.cfg.memoryMap = true ∧ exec .pha s = .next t ∧
      w.cfg = t.cfg ∧ w.sp = t.sp ∧ w.a ≠ t.a ∧ w.mem ≠ t.mem ∧
      w.read (stackAddr s.sp) = t.read (stackAddr s.sp) ∧ runsClear .pla w := by
  let s := boot { defaultInit with a := 0x80 } [0x48] []
  let t := ((s.push 0x80).setPc 0x8001).addCyc (baseCycles Instr.pha.desc s)
  exact ⟨s, t, (((t.poke 0x0010 0x77).setA 0x42).setX 0x01).setP 0x21, by decide, by decide, rfl, rfl, rfl, by decide, by decide,
    by decide, runsClear_of_wrap rfl _⟩

theorem witness_LoadResult :
    (Instr.ldxZpY 0xF0).desc.mnemonic ∈ [Mnemonic.lda, .ldx, .ldy] ∧
    operandValue (Instr.ldxZpY 0xF0).desc.operand (boot { defaultInit with y := 0x20 } [] [(0x0010, 0x44)]) = some 0x44 ∧
    runsClear (.ldxZpY 0xF0) (boot { defaultInit with y := 0x20 } [] [(0x0010, 0x44)]) :=
  ⟨by decide, by decide, runsClear_of_wrap rfl _⟩

theorem witness_StoreResult :
    (Instr.staIndY 0x40).desc.mnemonic = .sta ∧ (Instr.stxZp 0x40).desc.mnemonic = .stx ∧
    (Instr.styZp 0x40).desc.mnemonic = .sty ∧ (Instr.staIndY 0x40).desc.operand = .mem (.indY 0x40) ∧
    runsClear (.staIndY 0x40) State.reset := ⟨rfl, rfl, rfl, rfl, runsClear_of_wrap rfl _⟩

theorem witness_TransferResult :
    Instr.tsx ∈ [Instr.tax, .tay, .txa, .tya, .tsx] ∧ runsClear .tsx State.reset := ⟨by decide, runsClear_of_wrap rfl _⟩

theorem witness_TxsChangesNoFlag : runsClear .txs State.reset := runsClear_of_wrap rfl _

theorem witness_LogicResult :
    (Instr.eorImm 0xFF).desc.mnemonic ∈ [Mnemonic.and, .ora, .eor] ∧
    operandValue (Instr.eorImm 0xFF).desc.operand State.reset = some 0xFF ∧ runsClear (.eorImm 0xFF) State.reset :=
  ⟨by decide, rfl, runsClear_of_wrap rfl _⟩

theorem witness_BitResult :
    (Instr.bitZp 0x10).desc.mnemonic = .bit ∧
    operandValue (Instr.bitZp 0x10).desc.operand (boot defaultInit [] [(0x0010, 0xC0)]) = some 0xC0 ∧
    runsClear (.bitZp 0x10) (boot defaultInit [] [(0x0010, 0xC0)]) := ⟨rfl, by decide, runsClear_of_wrap rfl _⟩

theorem witness_IncDecMemoryResult :
    (Instr.incZp 0x10).desc.mnemonic = .inc ∧ (Instr.decZp 0x10).desc.mnemonic = .dec ∧
    (Instr.incZp 0x10).desc.operand = .mem (.zp 0x10) ∧ runsClear (.incZp 0x10) State.reset :=
  ⟨rfl, rfl, rfl, runsClear_of_wrap rfl _⟩

theorem witness_IncDecRegisterResult :
    Instr.dey ∈ [Instr.inx, .iny, .dex, .dey] ∧ runsClear .dey State.reset := ⟨by decide, runsClear_of_wrap rfl _⟩

theorem witness_FlagInstructionResult :
    flagSetting Instr.sei.desc.mnemonic = some (.i, true) ∧ runsClear .sei State.reset := ⟨rfl, runsClear_of_wrap rfl _⟩

theorem witness_NopResult : runsClear .nop State.reset := runsClear_of_wrap rfl _

theorem witness_EveryInstructionCompletes : State.reset.cfg.addrOverflow = .wrap := rfl

theorem witness_IndexedAddressPastTopFaults :
    ∃ s : State, s.cfg.addrOverflow = .fault ∧ (Instr.staAbsY 0xFFFF).desc.operand = .mem (.absY 0xFFFF) ∧
      0xFFFF < addrSum (.absY 0xFFFF) s :=
  ⟨withConfig { recommendedConfig with addrOverflow := .fault } (boot { defaultInit with y := 0x01 } [] []), rfl, rfl, by decide⟩

/-- Each clause at the least sum that overflows: NOP at `$FFFF`, a branch and JSR at `$FFFE`, a taken branch to `$10000`, RTS to
`$FFFF + 1`, BRK at `$FFFF` taken and skipped. -/
theorem witness_ProgramCounterPastTopFaults :
    let at_ (r : ResetInit) := withConfig { recommendedConfig with addrOverflow := .fault } (boot r [] [(0x01FE, 0xFF), (0x01FF, 0xFF)])
    (∃ s : State, s.cfg.addrOverflow = .fault ∧ Instr.nop.desc.mnemonic.path ≠ .control ∧
      Instr.nop.desc.mnemonic ∉ [Mnemonic.brk, .rti, .rts] ∧ operandFits Instr.nop.desc.operand s ∧
      s.pc.toNat + Instr.nop.desc.bytes = 0x10000) ∧
    (Instr.bne 0x7F).desc.operand = .rel 0x7F ∧ branchTest (Instr.bne 0x7F).desc.mnemonic = some (.z, false) ∧
    (at_ { defaultInit with pc := 0xFFFE }).pc.toNat + 2 = 0x10000 ∧
    getFlag .z (at_ { defaultInit with pc := 0xFF7F }).p = false ∧
    (at_ { defaultInit with pc := 0xFF7F }).pc.toNat + 2 ≤ 0xFFFF ∧
    ((at_ { defaultInit with pc := 0xFF7F }).pc.toNat : Int) + 2 + (0x7F : Byte).toInt = 0x10000 ∧
    (at_ defaultInit).read (stackAddr ((at_ defaultInit).sp + 1)) = 0xFF ∧
    (at_ defaultInit).read (stackAddr ((at_ defaultInit).sp + 2)) = 0xFF ∧
    getFlag .i (at_ { defaultInit with pc := 0xFFFF }).p = false ∧
    (at_ { defaultInit with pc := 0xFFFF }).pc.toNat + 1 = 0x10000 ∧
    getFlag .i (at_ { defaultInit with pc := 0xFFFF, p := 0x24 }).p = true ∧
    (at_ { defaultInit with pc := 0xFFFF, p := 0x24 }).cfg.brkLength = 1 :=
  ⟨⟨withConfig { recommendedConfig with addrOverflow := .fault } (boot { defaultInit with pc := 0xFFFF } [] []),
    rfl, by decide, by decide, trivial, by decide⟩, by decide⟩

theorem witness_StepKeepsInvariant :
    State.reset.Inv ∧ (nextState? (step State.reset)).isSome = true := by decide

/-- LDA writes A alone, so X, Y and SP fall under the clauses of what is kept; TXS leaves A, X and Y. -/
theorem witness_RegistersChangeOnlyByTheirWriters :
    (nextState? (exec (.ldaImm 0x01) State.reset)).isSome = true ∧ writesX (Instr.ldaImm 0x01).desc = false ∧
    writesY (Instr.ldaImm 0x01).desc = false ∧ writesSp (Instr.ldaImm 0x01).desc State.reset = false ∧
    writesA Instr.txs.desc = false := by decide

theorem witness_FlagsChangeOnlyByTheirWriters :
    (nextState? (exec (.ldaImm 0x01) State.reset)).isSome = true ∧ Flag.c ∉ flagsWritten (Instr.ldaImm 0x01).desc ∧
    (nextState? (exec .brk State.reset)).isSome = true ∧ Flag.c ∉ flagsWritten Instr.brk.desc := by decide

/-- A store, at an address that is no image of the one stored to, and at the last stack cell JSR leaves alone. -/
theorem witness_MemoryChangesOnlyWhereStored :
    hasCells State.reset.cfg.memoryMap = true ∧
    (nextState? (exec (.staAbs 0x0810) State.reset)).isSome = true ∧
    (∀ e ∈ storedAddrs (.staAbs 0x0810) State.reset,
      cellOf State.reset.cfg.memoryMap 0x0011 ≠ cellOf State.reset.cfg.memoryMap e) ∧
    (nextState? (exec (.jsr 0x9000) State.reset)).isSome = true ∧
    (∀ e ∈ storedAddrs (.jsr 0x9000) State.reset,
      cellOf State.reset.cfg.memoryMap 0x01FB ≠ cellOf State.reset.cfg.memoryMap e) := by
  refine ⟨by decide, by decide, ?_, by decide, ?_⟩
  · intro e he
    obtain rfl := List.mem_singleton.mp he
    decide
  · intro e he
    obtain rfl | he := List.mem_cons.mp he
    · decide
    · obtain rfl := List.mem_singleton.mp he
      decide

theorem witness_CyclesAccumulate :
    (nextState? (exec .brk State.reset)).isSome = true ∧ getFlag .i State.reset.p = false := by decide

end Sys2Proof.Tests
end

section
/-! SUPPORT. What an instruction may change, said once for all 151: its effect stays within the footprint that the writer tables of
10_state.md give it (R24 to R31, R35), and the step then writes PC and adds to CYC (R98). The state obligations are read off it. -/

namespace Sys2Proof.Machine

/-! ### Footprints -/

/-- The registers and flags something may write. -/
structure Footprint where
  a     : Bool
  x     : Bool
  y     : Bool
  sp    : Bool
  flags : List Flag

/-- The footprint the writer tables give an instruction in a state (R24 to R31, R35). -/
def footprint (d : Descriptor) (s : State) : Footprint where
  a := writesA d
  x := writesX d
  y := writesY d
  sp := writesSp d s
  flags := flagsWritten d

/-- `u` comes from `s` by an effect inside the footprint: memory stays canonical, the Unused bit stays on, and PC, CYC and the
parameters are not touched. -/
structure Effect (w : Footprint) (s u : State) : Prop where
  a      : w.a = false → u.a = s.a
  x      : w.x = false → u.x = s.x
  y      : w.y = false → u.y = s.y
  sp     : w.sp = false → u.sp = s.sp
  flags  : FlagsKept w.flags s.p u.p
  unused : getFlag .u s.p = true → getFlag .u u.p = true
  mem    : s.mem.wf s.cfg.memoryMap = true → u.mem.wf s.cfg.memoryMap = true
  pc     : u.pc = s.pc
  cyc    : u.cyc = s.cyc
  cfg    : u.cfg = s.cfg

section Updates

variable {w : Footprint} {s u : State}

theorem Effect.refl (w : Footprint) (s : State) : Effect w s s where
  a _ := rfl
  x _ := rfl
  y _ := rfl
  sp _ := rfl
  flags _ _ := rfl
  unused := id
  mem := id
  pc := rfl
  cyc := rfl
  cfg := rfl

theorem Effect.setA (h : Effect w s u) (hw : w.a = true) (v : Byte) : Effect w s (u.setA v) :=
  { h with a := fun hn => by simp [hw] at hn }

theorem Effect.setX (h : Effect w s u) (hw : w.x = true) (v : Byte) : Effect w s (u.setX v) :=
  { h with x := fun hn => by simp [hw] at hn }

theorem Effect.setY (h : Effect w s u) (hw : w.y = true) (v : Byte) : Effect w s (u.setY v) :=
  { h with y := fun hn => by simp [hw] at hn }

theorem Effect.setSp (h : Effect w s u) (hw : w.sp = true) (v : Byte) : Effect w s (u.setSp v) :=
  { h with sp := fun hn => by simp [hw] at hn }

theorem Effect.setP (h : Effect w s u) {fs : List Flag} {q : Byte} (hw : w.flags = fs) (hq : FlagsKept fs u.p q)
    (hu : getFlag .u u.p = true → getFlag .u q = true) : Effect w s (u.setP q) :=
  { h with
    flags := fun f hf => (hq f (hw ▸ hf)).trans (h.flags f hf)
    unused := hu ∘ h.unused }

/-- A new status that differs from the old one in written flags only, Unused not among them. -/
theorem Effect.setP_of_kept (h : Effect w s u) {fs : List Flag} {q : Byte} (hw : w.flags = fs) (hq : FlagsKept fs u.p q)
    (hu : Flag.u ∉ fs) : Effect w s (u.setP q) :=
  h.setP hw hq fun hp => (hq .u hu).trans hp

theorem Effect.write (h : Effect w s u) (e : Addr) (v : Byte) : Effect w s (u.write e v) :=
  { h with mem := fun hm => by rw [← h.cfg]; exact u.wf_write e v (by rw [h.cfg]; exact h.mem hm) }

theorem Effect.push (h : Effect w s u) (hw : w.sp = true) (v : Byte) : Effect w s (u.push v) :=
  (h.write _ v).setSp hw _

theorem Effect.pulled (h : Effect w s u) (hw : w.sp = true) : Effect w s u.pulled :=
  h.setSp hw _

end Updates

/-! ### The flag computations write the flags of their rule -/

theorem flagsKept_setZN (v p : Byte) : FlagsKept [.z, .n] p (setZN v p) := by
  intro f hf
  cases f <;> simp at hf ⊢

theorem flagsKept_setFlag (f : Flag) (v : Bool) (p : Byte) : FlagsKept [f] p (setFlag f v p) := by
  intro g hg
  simp [List.mem_singleton.not.mp hg]

theorem flagsKept_addFlags (a v p : Byte) : FlagsKept [.c, .z, .v, .n] p (addFlags a v p) := by
  intro f hf
  cases f <;> simp [getFlag_addFlags] at hf ⊢

theorem flagsKept_subFlags (a v p : Byte) : FlagsKept [.c, .z, .v, .n] p (subFlags a v p) := by
  intro f hf
  cases f <;> simp [getFlag_subFlags] at hf ⊢

theorem flagsKept_compareFlags (r v p : Byte) : FlagsKept [.c, .z, .n] p (compareFlags r v p) := by
  intro f hf
  cases f <;> simp [getFlag_compareFlags] at hf ⊢

theorem flagsKept_bitFlags (a v p : Byte) : FlagsKept [.z, .v, .n] p (bitFlags a v p) := by
  intro f hf
  cases f <;> simp [getFlag_bitFlags] at hf ⊢

/-- C from the bit shifted out and Z, N from the new byte, as every shift writes them (R170). -/
theorem flagsKept_setZN_setC (v : Byte) (c : Bool) (p : Byte) : FlagsKept [.c, .z, .n] p (setZN v (setFlag .c c p)) := by
  intro f hf
  cases f <;> simp at hf ⊢

/-- All eight flags are a footprint that keeps none of them. -/
theorem flagsKept_all (p q : Byte) : FlagsKept [.c, .z, .i, .d, .b, .u, .v, .n] p q := by
  intro f hf
  cases f <;> simp at hf

/-! ### The shared effects -/

section Effects

variable {w : Footprint}

theorem effect_addWithCarry (ha : w.a = true) (hf : w.flags = [.c, .z, .v, .n]) (v : Byte) (s : State) :
    Effect w s (addWithCarry v s) :=
  ((Effect.refl w s).setA ha _).setP_of_kept hf (flagsKept_addFlags _ _ _) (by decide)

theorem effect_subtractWithBorrow (ha : w.a = true) (hf : w.flags = [.c, .z, .v, .n]) (v : Byte) (s : State) :
    Effect w s (subtractWithBorrow v s) :=
  ((Effect.refl w s).setA ha _).setP_of_kept hf (flagsKept_subFlags _ _ _) (by decide)

theorem effect_compare (hf : w.flags = [.c, .z, .n]) (r v : Byte) (s : State) :
    Effect w s (s.setP (compareFlags r v s.p)) :=
  (Effect.refl w s).setP_of_kept hf (flagsKept_compareFlags _ _ _) (by decide)

theorem effect_testBits (hf : w.flags = [.z, .v, .n]) (v : Byte) (s : State) : Effect w s (testBits v s) :=
  (Effect.refl w s).setP_of_kept hf (flagsKept_bitFlags _ _ _) (by decide)

theorem effect_loadA (ha : w.a = true) (hf : w.flags = [.z, .n]) (v : Byte) (s : State) : Effect w s (loadA v s) :=
  ((Effect.refl w s).setA ha _).setP_of_kept hf (flagsKept_setZN _ _) (by decide)

theorem effect_loadX (hx : w.x = true) (hf : w.flags = [.z, .n]) (v : Byte) (s : State) : Effect w s (loadX v s) :=
  ((Effect.refl w s).setX hx _).setP_of_kept hf (flagsKept_setZN _ _) (by decide)

theorem effect_loadY (hy : w.y = true) (hf : w.flags = [.z, .n]) (v : Byte) (s : State) : Effect w s (loadY v s) :=
  ((Effect.refl w s).setY hy _).setP_of_kept hf (flagsKept_setZN _ _) (by decide)

theorem effect_writeFlag {f : Flag} (hf : w.flags = [f]) (hu : Flag.u ∉ [f]) (v : Bool) (s : State) :
    Effect w s (writeFlag f v s) :=
  (Effect.refl w s).setP_of_kept hf (flagsKept_setFlag _ _ _) hu

theorem effect_pullA (ha : w.a = true) (hsp : w.sp = true) (hf : w.flags = [.z, .n]) (s : State) : Effect w s (pullA s) :=
  (((Effect.refl w s).pulled hsp).setA ha _).setP_of_kept hf (flagsKept_setZN _ _) (by decide)

/-- A pulled status writes every flag, with Unused forced on (R221, R225). -/
theorem effect_pullP (hsp : w.sp = true) (hf : w.flags = [.c, .z, .i, .d, .b, .u, .v, .n]) (s : State) :
    Effect w s (pullP s) :=
  ((Effect.refl w s).pulled hsp).setP hf (flagsKept_all _ _) fun _ => by simp

end Effects

/-! ### The modes of the paths (R138) -/

theorem not_mem_modes_of_read (mn : Mnemonic) :
    mn.path = .read → ∀ mode ∈ mn.modes, mode ∉ [Mode.imp, .acc, .rel, .ind] := by
  cases mn <;> decide

theorem not_mem_modes_of_write (mn : Mnemonic) :
    mn.path = .write → ∀ mode ∈ mn.modes, mode ∉ [Mode.imp, .acc, .imm, .rel, .ind] := by
  cases mn <;> decide

/-- INC and DEC, the two that write no register, have no Accumulator form. -/
theorem not_mem_modes_of_modify (mn : Mnemonic) :
    mn.path = .modify → ∀ mode ∈ mn.modes, mode ∉ [Mode.imp, .imm, .rel, .ind] ∧
      (mode = .acc → writesA ⟨mn, .accumulator⟩ = true) := by
  cases mn <;> decide

theorem modes_of_none (mn : Mnemonic) : mn.path = .none → mn.modes = [.imp] := by
  cases mn <;> decide

/-! ### Instructions that fall through to the next one -/

/-- The overflow check of the operand's address, for the operands that have one (R56). -/
def operandChecked (o : Operand) (s : State) (r : Result) : Result :=
  match o with
  | .mem m => checked s (addrSum m s) r
  | _ => r

theorem operandChecked_of_fits {o : Operand} {s : State} (r : Result) (h : operandFits o s) : operandChecked o s r = r := by
  cases o with
  | mem m => exact checked_of_fits r h
  | _ => rfl

theorem operandChecked_eq_next {o : Operand} {s t : State} {r : Result} (h : operandChecked o s r = .next t) :
    r = .next t := by
  cases o with
  | mem m => exact (checked_eq_next h).1
  | _ => exact h

/-- The row's rule is its operand's check, an effect inside its footprint, and the advance to the next instruction (R98). -/
def FallsThrough (d : Descriptor) (s : State) : Prop :=
  ∃ u n, Effect (footprint d s) s u ∧ baseCycles d s ≤ n ∧ run d s = operandChecked d.operand s (advance u d.bytes n)

section Paths

variable {d : Descriptor} {s : State}

/-- The mode of an operand is one of its mnemonic's. -/
theorem mode_mem (hd : d.modeOk = true) : d.operand.mode ∈ d.mnemonic.modes :=
  List.contains_iff_mem.mp hd

/-- R138: the read path has an immediate operand or one in memory. -/
theorem operand_of_read (hd : d.modeOk = true) (hp : d.mnemonic.path = .read) :
    (∃ v, d.operand = .imm v) ∨ ∃ m, d.operand = .mem m := by
  have hm := not_mem_modes_of_read _ hp _ (mode_mem hd)
  cases ho : d.operand with
  | imm v => exact .inl ⟨v, rfl⟩
  | mem m => exact .inr ⟨m, rfl⟩
  | _ => simp [ho, Operand.mode] at hm

/-- R138: the write path has an operand in memory. -/
theorem operand_of_write (hd : d.modeOk = true) (hp : d.mnemonic.path = .write) : ∃ m, d.operand = .mem m := by
  have hm := not_mem_modes_of_write _ hp _ (mode_mem hd)
  cases ho : d.operand with
  | mem m => exact ⟨m, rfl⟩
  | _ => simp [ho, Operand.mode] at hm

/-- R138: the read-modify-write path has an operand in memory, or is a shift of the accumulator, which writes A (R35). -/
theorem operand_of_modify (hd : d.modeOk = true) (hp : d.mnemonic.path = .modify) :
    (d.operand = .accumulator ∧ writesA d = true) ∨ ∃ m, d.operand = .mem m := by
  obtain ⟨hm, hA⟩ := not_mem_modes_of_modify _ hp _ (mode_mem hd)
  cases ho : d.operand with
  | accumulator => exact .inl ⟨rfl, by rw [← hA (by rw [ho]; rfl), ← ho]⟩
  | mem m => exact .inr ⟨m, rfl⟩
  | _ => simp [ho, Operand.mode] at hm

/-- R138: a mnemonic without an operand path is Implied. -/
theorem operand_of_none (hd : d.modeOk = true) (hp : d.mnemonic.path = .none) : d.operand = .implied := by
  have hm := mode_mem hd
  rw [modes_of_none _ hp, List.mem_singleton] at hm
  cases ho : d.operand with
  | implied => rfl
  | mem m => cases m <;> simp [ho, Operand.mode, MemOperand.mode] at hm
  | _ => simp [ho, Operand.mode] at hm

theorem FallsThrough.read {f : Byte → State → State} (hr : run d s = runRead d f s) (hd : d.modeOk = true)
    (hp : d.mnemonic.path = .read) (hf : ∀ v, Effect (footprint d s) s (f v s)) : FallsThrough d s := by
  unfold FallsThrough
  rw [hr, runRead]
  obtain ⟨v, hv⟩ | ⟨m, hm⟩ := operand_of_read hd hp
  · rw [hv]
    exact ⟨_, _, hf v, Nat.le_refl _, rfl⟩
  · rw [hm]
    exact ⟨_, _, hf _, Nat.le_add_right _ _, rfl⟩

theorem FallsThrough.write {v : Byte} (hr : run d s = runWrite d v s) (hd : d.modeOk = true)
    (hp : d.mnemonic.path = .write) : FallsThrough d s := by
  unfold FallsThrough
  obtain ⟨m, hm⟩ := operand_of_write hd hp
  rw [hr, runWrite, hm]
  exact ⟨_, _, (Effect.refl _ s).write _ v, Nat.le_refl _, rfl⟩

theorem FallsThrough.modify {f : Byte → Byte → Byte × Byte} {fs : List Flag} (hr : run d s = runModify d f s)
    (hd : d.modeOk = true) (hp : d.mnemonic.path = .modify) (hw : flagsWritten d = fs)
    (hf : ∀ v p, FlagsKept fs p (f v p).2) (hu : Flag.u ∉ fs) : FallsThrough d s := by
  unfold FallsThrough
  rw [hr, runModify]
  obtain ⟨ho, ha⟩ | ⟨m, ho⟩ := operand_of_modify hd hp
  · rw [ho]
    exact ⟨_, _, ((Effect.refl _ s).setA ha _).setP_of_kept hw (hf _ _) hu, Nat.le_refl _, rfl⟩
  · rw [ho]
    exact ⟨_, _, ((Effect.refl _ s).write _ _).setP_of_kept hw (hf _ _) hu, Nat.le_add_right _ _, rfl⟩

theorem FallsThrough.implied {f : State → State} (hr : run d s = implied d f s) (hd : d.modeOk = true)
    (hp : d.mnemonic.path = .none) (hf : Effect (footprint d s) s (f s)) : FallsThrough d s := by
  unfold FallsThrough
  rw [hr, operand_of_none hd hp]
  exact ⟨_, _, hf, Nat.le_refl _, rfl⟩

end Paths

/-- Every instruction but those that write PC falls through (R98). -/
theorem run_fallsThrough {d : Descriptor} (s : State) (hd : d.modeOk = true) (hc : d.mnemonic.path ≠ .control)
    (ht : d.mnemonic ∉ [Mnemonic.brk, .rti, .rts]) : FallsThrough d s := by
  obtain ⟨mn, o⟩ := d
  cases mn with
  | adc => exact .read rfl hd rfl fun v => effect_addWithCarry rfl rfl v s
  | sbc => exact .read rfl hd rfl fun v => effect_subtractWithBorrow rfl rfl v s
  | cmp => exact .read rfl hd rfl fun v => effect_compare rfl s.a v s
  | cpx => exact .read rfl hd rfl fun v => effect_compare rfl s.x v s
  | cpy => exact .read rfl hd rfl fun v => effect_compare rfl s.y v s
  | lda => exact .read rfl hd rfl fun v => effect_loadA rfl rfl v s
  | ldx => exact .read rfl hd rfl fun v => effect_loadX rfl rfl v s
  | ldy => exact .read rfl hd rfl fun v => effect_loadY rfl rfl v s
  | and => exact .read rfl hd rfl fun v => effect_loadA rfl rfl (s.a &&& v) s
  | ora => exact .read rfl hd rfl fun v => effect_loadA rfl rfl (s.a ||| v) s
  | eor => exact .read rfl hd rfl fun v => effect_loadA rfl rfl (s.a ^^^ v) s
  | bit => exact .read rfl hd rfl fun v => effect_testBits rfl v s
  | sta | stx | sty => exact .write rfl hd rfl
  | asl | lsr | rol | ror => exact .modify (fs := [.c, .z, .n]) rfl hd rfl rfl (fun v p => flagsKept_setZN_setC _ _ _) (by decide)
  | inc | dec => exact .modify (fs := [.z, .n]) rfl hd rfl rfl (fun v p => flagsKept_setZN _ _) (by decide)
  | pha | php => exact .implied rfl hd rfl ((Effect.refl _ s).push rfl _)
  | pla => exact .implied rfl hd rfl (effect_pullA rfl rfl rfl s)
  | plp => exact .implied rfl hd rfl (effect_pullP rfl rfl s)
  | tax | tsx => exact .implied rfl hd rfl (effect_loadX rfl rfl _ s)
  | tay => exact .implied rfl hd rfl (effect_loadY rfl rfl _ s)
  | txa | tya => exact .implied rfl hd rfl (effect_loadA rfl rfl _ s)
  | txs => exact .implied (f := fun t => t.setSp t.x) rfl hd rfl ((Effect.refl _ s).setSp rfl _)
  | inx | dex => exact .implied rfl hd rfl (effect_loadX rfl rfl _ s)
  | iny | dey => exact .implied rfl hd rfl (effect_loadY rfl rfl _ s)
  | clc | sec | cli | sei | clv | cld | sed => exact .implied rfl hd rfl (effect_writeFlag rfl (by decide) _ s)
  | nop => exact .implied (f := fun t => t) rfl hd rfl (.refl _ s)
  | jmp | jsr | bcc | bcs | beq | bne | bmi | bpl | bvc | bvs => exact absurd rfl hc
  | brk | rti | rts => simp at ht

/-! ### Every next state -/

/-- `t` is what a completed instruction leaves of `s`: an effect inside its footprint, a new PC, and at least its base cycles
unless it was a BRK that it skipped (R98, R99). -/
def Retires (d : Descriptor) (s t : State) : Prop :=
  ∃ u target n, Effect (footprint d s) s u ∧ t = (u.setPc target).addCyc n ∧
    ((d.mnemonic = .brk → getFlag .i s.p = false) → baseCycles d s ≤ n)

theorem FallsThrough.retires {d : Descriptor} {s t : State} (hf : FallsThrough d s) (h : run d s = .next t) : Retires d s t := by
  obtain ⟨u, n, hu, hn, hr⟩ := hf
  rw [hr] at h
  exact ⟨u, _, n, hu, (advance_eq_next (operandChecked_eq_next h)).1, fun _ => hn⟩

/-- Control transfer writes PC, and JSR the stack (R190 to R202). -/
theorem control_retires {d : Descriptor} {s t : State} (hc : d.mnemonic.path = .control) (h : run d s = .next t) :
    Retires d s t := by
  obtain ⟨mn, o⟩ := d
  cases mn with
  | jmp =>
    obtain ⟨target, rfl⟩ := runJmp_eq_next rfl h
    exact ⟨s, target, _, .refl _ s, rfl, fun _ => Nat.le_refl _⟩
  | jsr =>
    simp only [run] at h
    split at h
    · obtain ⟨rfl, -⟩ := execJsr_eq_next h
      exact ⟨_, _, _, ((Effect.refl _ s).push rfl _).push rfl _, rfl, fun _ => Nat.le_refl _⟩
    · cases h
  | bcc | bcs | beq | bne | bmi | bpl | bvc | bvs =>
    obtain ⟨target, n, rfl, hn⟩ := runBranch_eq_next h
    exact ⟨s, target, n, .refl _ s, rfl, fun _ => hn⟩
  | _ => cases hc

/-- RTS, RTI and BRK write PC from the stack or from the vector (R193, R220, R221). -/
theorem trap_retires {d : Descriptor} {s t : State} (hd : d.modeOk = true) (ht : d.mnemonic ∈ [Mnemonic.brk, .rti, .rts])
    (h : run d s = .next t) : Retires d s t := by
  obtain ⟨mn, o⟩ := d
  simp only [List.mem_cons, List.not_mem_nil, or_false] at ht
  obtain rfl | rfl | rfl := ht <;> obtain rfl := operand_of_none hd rfl
  · obtain ⟨hi, rfl⟩ | ⟨hi, rfl, -⟩ := execBrk_eq_next h
    · exact ⟨s, _, _, .refl _ s, rfl, fun hn => by simp [hi] at hn⟩
    · have hsp : writesSp Instr.brk.desc s = true := by simp [writesSp, Instr.desc, hi]
      have hpush := (((Effect.refl (footprint Instr.brk.desc s) s).push hsp (page (s.pc + 1))).push hsp (lowByte (s.pc + 1))).push
        hsp (pushedStatus s.p)
      exact ⟨_, _, _, hpush.setP_of_kept (fs := [.i]) rfl (flagsKept_setFlag .i true _) (by decide), rfl, fun _ => Nat.le_refl _⟩
  · cases h
    have hpull := (((Effect.refl (footprint Instr.rti.desc s) s).pulled rfl).pulled rfl).pulled rfl
    exact ⟨_, _, _, hpull.setP rfl (flagsKept_all _ _) fun _ => by simp, rfl, fun _ => Nat.le_refl _⟩
  · obtain ⟨target, rfl⟩ := execRts_eq_next h
    exact ⟨_, target, _, ((Effect.refl _ s).pulled rfl).pulled rfl, rfl, fun _ => Nat.le_refl _⟩

/-- Everything a next state of an instruction can be. -/
theorem exec_retires {i : Instr} {s t : State} (h : exec i s = .next t) : Retires i.desc s t := by
  rw [exec_eq_run] at h
  by_cases hc : i.desc.mnemonic.path = .control
  · exact control_retires hc h
  · by_cases ht : i.desc.mnemonic ∈ [Mnemonic.brk, .rti, .rts]
    · exact trap_retires (modeOk_desc i) ht h
    · exact (run_fallsThrough s (modeOk_desc i) hc ht).retires h

/-- A step that goes on has run the instruction it fetched (R98). -/
theorem step_eq_next {s t : State} (h : step s = .next t) : ∃ i, fetch s = .ok i ∧ exec i s = .next t := by
  cases hf : fetch s with
  | error f => simp [step_of_error hf] at h
  | ok i => exact ⟨i, rfl, by rw [← step_of_fetch hf, h]⟩

/-! ### The state obligations -/

/-- Settles O56: a step that goes on runs one instruction, whose effect keeps Unused on and memory canonical. -/
theorem stepKeepsInvariant : Obligations.StepKeepsInvariant := by
  rintro s t ⟨hp, hm⟩ h
  obtain ⟨i, -, hi⟩ := step_eq_next h
  obtain ⟨u, target, n, hu, rfl, -⟩ := exec_retires hi
  exact ⟨hu.unused hp, by simpa [hu.cfg] using hu.mem hm⟩

/-- Settles O57, from the footprint of every instruction. -/
theorem registersChangeOnlyByTheirWriters : Obligations.RegistersChangeOnlyByTheirWriters := by
  intro i s t h
  obtain ⟨u, target, n, hu, rfl, -⟩ := exec_retires h
  exact ⟨hu.a, hu.x, hu.y, hu.sp, hu.cfg⟩

/-- Settles O58, from the footprint of every instruction; the model leaves Break alone at a BRK too (log 13). -/
theorem flagsChangeOnlyByTheirWriters : Obligations.FlagsChangeOnlyByTheirWriters := by
  intro i s t f h hf _
  obtain ⟨u, target, n, hu, rfl, -⟩ := exec_retires h
  exact hu.flags f hf

/-- Settles O60: the effect leaves CYC alone and the end of the step adds to it. -/
theorem cyclesAccumulate : Obligations.CyclesAccumulate := by
  intro i s t h
  obtain ⟨u, target, n, hu, rfl, hn⟩ := exec_retires h
  simp only [State.addCyc_cyc, State.setPc_cyc, hu.cyc]
  exact ⟨Nat.le_add_right _ _, fun hb => Nat.add_le_add_left (hn hb) _⟩

/-- Settles O2. -/
theorem resetStatusIsUnusedOnly : Obligations.ResetStatusIsUnusedOnly := rfl

/-- Settles O3: the status register of O2 has Unused on, and memory lists no cell. -/
theorem resetMeetsInvariant : Obligations.ResetMeetsInvariant :=
  ⟨by rw [resetStatusIsUnusedOnly]; decide, rfl⟩

end Sys2Proof.Machine
end

section
/-! SUPPORT. The Decimal flag is inert (R27, R153): every operation that does not copy or write P.D commutes with setting it, and
so does every instruction made of such operations. -/

namespace Sys2Proof.Machine

/-- The state with `P.D <- b` (R27). -/
def setDecimal (b : Bool) (s : State) : State := s.setP (setFlag .d b s.p)

/-- A change of the next state of a result that goes on. -/
def onNext (g : State → State) (r : Result) : Result :=
  match r with
  | .next t => .next (g t)
  | .fault f => .fault f
  | .refused r => .refused r

@[simp] theorem setDecimal_a (b : Bool) (s : State) : (setDecimal b s).a = s.a := rfl
@[simp] theorem setDecimal_p (b : Bool) (s : State) : (setDecimal b s).p = setFlag .d b s.p := rfl
@[simp] theorem setDecimal_read (b : Bool) (s : State) (e : Addr) : (setDecimal b s).read e = s.read e := rfl

@[simp] theorem effAddr_setDecimal (m : MemOperand) (b : Bool) (s : State) : effAddr m (setDecimal b s) = effAddr m s := rfl

/-! ### The status register -/

/-- Writes of two different flags commute. -/
theorem setFlag_comm {f g : Flag} (h : f ≠ g) (v w : Bool) (p : Byte) :
    setFlag f v (setFlag g w p) = setFlag g w (setFlag f v p) := by
  refine status_ext fun k => ?_
  simp only [getFlag_setFlag]
  by_cases hf : k = f
  · simp [hf, h]
  · simp [hf]

@[simp] theorem carryBit_setDecimal (b : Bool) (p : Byte) : carryBit (setFlag .d b p) = carryBit p := by
  simp [carryBit]

theorem setZN_setDecimal (b : Bool) (v p : Byte) : setZN v (setFlag .d b p) = setFlag .d b (setZN v p) := by
  rw [setZN, setZN, setFlag_comm (f := .z) (by decide), setFlag_comm (f := .n) (by decide)]

@[simp] theorem addSum_setDecimal (b : Bool) (a v p : Byte) : addSum a v (setFlag .d b p) = addSum a v p := by
  simp [addSum]

@[simp] theorem subDiff_setDecimal (b : Bool) (a v p : Byte) : subDiff a v (setFlag .d b p) = subDiff a v p := by
  simp [subDiff]

theorem addFlags_setDecimal (b : Bool) (a v p : Byte) : addFlags a v (setFlag .d b p) = setFlag .d b (addFlags a v p) := by
  refine status_ext fun f => ?_
  cases f <;> simp [getFlag_addFlags]

theorem subFlags_setDecimal (b : Bool) (a v p : Byte) : subFlags a v (setFlag .d b p) = setFlag .d b (subFlags a v p) := by
  refine status_ext fun f => ?_
  cases f <;> simp [getFlag_subFlags]

theorem compareFlags_setDecimal (b : Bool) (r v p : Byte) :
    compareFlags r v (setFlag .d b p) = setFlag .d b (compareFlags r v p) := by
  refine status_ext fun f => ?_
  cases f <;> simp [getFlag_compareFlags]

theorem bitFlags_setDecimal (b : Bool) (a v p : Byte) : bitFlags a v (setFlag .d b p) = setFlag .d b (bitFlags a v p) := by
  refine status_ext fun f => ?_
  cases f <;> simp [getFlag_bitFlags]

/-- A read-modify-write function makes the same byte and the same other flags whatever P.D holds. -/
def DecimalInert (f : Byte → Byte → Byte × Byte) : Prop :=
  ∀ b v p, f v (setFlag .d b p) = ((f v p).1, setFlag .d b (f v p).2)

theorem setZN_setC_setDecimal (b c : Bool) (v p : Byte) :
    setZN v (setFlag .c c (setFlag .d b p)) = setFlag .d b (setZN v (setFlag .c c p)) := by
  rw [setFlag_comm (f := .c) (by decide), setZN_setDecimal]

theorem decimalInert_shiftLeft : DecimalInert shiftLeft := fun _ _ _ => by
  simp [shiftLeft, setZN_setC_setDecimal]

theorem decimalInert_shiftRight : DecimalInert shiftRight := fun _ _ _ => by
  simp [shiftRight, setZN_setC_setDecimal]

theorem decimalInert_rotateLeft : DecimalInert rotateLeft := fun _ _ _ => by
  simp [rotateLeft, setZN_setC_setDecimal]

theorem decimalInert_rotateRight : DecimalInert rotateRight := fun _ _ _ => by
  simp [rotateRight, setZN_setC_setDecimal]

theorem decimalInert_increment : DecimalInert increment := fun _ _ _ => by
  simp [increment, setZN_setDecimal]

theorem decimalInert_decrement : DecimalInert decrement := fun _ _ _ => by
  simp [decrement, setZN_setDecimal]

/-! ### The shared effects -/

theorem addWithCarry_setDecimal (b : Bool) (v : Byte) (s : State) :
    addWithCarry v (setDecimal b s) = setDecimal b (addWithCarry v s) := by
  simp only [addWithCarry, setDecimal_a, setDecimal_p, addFlags_setDecimal, addSum_setDecimal]
  rfl

theorem subtractWithBorrow_setDecimal (b : Bool) (v : Byte) (s : State) :
    subtractWithBorrow v (setDecimal b s) = setDecimal b (subtractWithBorrow v s) := by
  simp only [subtractWithBorrow, setDecimal_a, setDecimal_p, subFlags_setDecimal, subDiff_setDecimal]
  rfl

/-- A status made from P by a function that commutes with writing P.D. -/
theorem setP_setDecimal {g : Byte → Byte} {b : Bool} {s u : State} (hg : g (setFlag .d b s.p) = setFlag .d b (g s.p)) :
    (setDecimal b u).setP (g (setDecimal b s).p) = setDecimal b (u.setP (g s.p)) :=
  congrArg u.setP hg

theorem loadA_setDecimal (b : Bool) (v : Byte) (s : State) : loadA v (setDecimal b s) = setDecimal b (loadA v s) :=
  setP_setDecimal (u := s.setA v) (setZN_setDecimal b v s.p)

theorem loadX_setDecimal (b : Bool) (v : Byte) (s : State) : loadX v (setDecimal b s) = setDecimal b (loadX v s) :=
  setP_setDecimal (u := s.setX v) (setZN_setDecimal b v s.p)

theorem loadY_setDecimal (b : Bool) (v : Byte) (s : State) : loadY v (setDecimal b s) = setDecimal b (loadY v s) :=
  setP_setDecimal (u := s.setY v) (setZN_setDecimal b v s.p)

theorem pullA_setDecimal (b : Bool) (s : State) : pullA (setDecimal b s) = setDecimal b (pullA s) :=
  setP_setDecimal (u := s.pulled.setA s.pullByte) (setZN_setDecimal b s.pullByte s.p)

theorem compare_setDecimal (b : Bool) (r v : Byte) (s : State) :
    (setDecimal b s).setP (compareFlags r v (setDecimal b s).p) = setDecimal b (s.setP (compareFlags r v s.p)) :=
  setP_setDecimal (compareFlags_setDecimal b r v s.p)

theorem testBits_setDecimal (b : Bool) (v : Byte) (s : State) : testBits v (setDecimal b s) = setDecimal b (testBits v s) :=
  setP_setDecimal (bitFlags_setDecimal b s.a v s.p)

theorem writeFlag_setDecimal {f : Flag} (hf : f ≠ .d) (v b : Bool) (s : State) :
    writeFlag f v (setDecimal b s) = setDecimal b (writeFlag f v s) :=
  setP_setDecimal (setFlag_comm hf v b s.p)

/-! ### The paths -/

theorem onNext_checked (g : State → State) (s : State) (sum : Nat) (k : Result) :
    onNext g (checked s sum k) = checked s sum (onNext g k) := by
  rw [checked_eq, checked_eq]
  split <;> rfl

theorem advance_setDecimal (b : Bool) (s : State) (bytes cycles : Nat) :
    advance (setDecimal b s) bytes cycles = onNext (setDecimal b) (advance s bytes cycles) := by
  rw [advance, advance, onNext_checked]
  rfl

@[simp] theorem baseCycles_setDecimal (d : Descriptor) (b : Bool) (s : State) :
    baseCycles d (setDecimal b s) = baseCycles d s :=
  baseCycles_congr d rfl rfl rfl

section Paths

variable {d : Descriptor} {b : Bool} {s : State}

theorem readMem_setDecimal {m : MemOperand} {f : Byte → State → State}
    (hf : ∀ v, f v (setDecimal b s) = setDecimal b (f v s)) :
    readMem d m f (setDecimal b s) = onNext (setDecimal b) (readMem d m f s) := by
  rw [readMem, readMem, onNext_checked, ← advance_setDecimal, ← hf]
  rfl

theorem runRead_setDecimal {f : Byte → State → State} (hf : ∀ v, f v (setDecimal b s) = setDecimal b (f v s)) :
    runRead d f (setDecimal b s) = onNext (setDecimal b) (runRead d f s) := by
  unfold runRead
  split
  · rw [readImm, readImm, ← advance_setDecimal, ← hf, baseCycles_setDecimal]
  · exact readMem_setDecimal hf
  · rfl

theorem runWrite_setDecimal (v : Byte) :
    runWrite d v (setDecimal b s) = onNext (setDecimal b) (runWrite d v s) := by
  unfold runWrite
  split
  · rw [writeMem, writeMem, onNext_checked, ← advance_setDecimal]
    rfl
  · rfl

theorem modifyMem_setDecimal {m : MemOperand} {f : Byte → Byte → Byte × Byte} (hf : DecimalInert f) :
    modifyMem d m f (setDecimal b s) = onNext (setDecimal b) (modifyMem d m f s) := by
  rw [modifyMem, modifyMem, onNext_checked, ← advance_setDecimal]
  simp only [setDecimal_p, setDecimal_read, effAddr_setDecimal, hf b _ s.p]
  rfl

theorem runModify_setDecimal {f : Byte → Byte → Byte × Byte} (hf : DecimalInert f) :
    runModify d f (setDecimal b s) = onNext (setDecimal b) (runModify d f s) := by
  unfold runModify
  split
  · rw [modifyA, modifyA, ← advance_setDecimal]
    simp only [setDecimal_p, setDecimal_a, hf b _ s.p]
    rfl
  · exact modifyMem_setDecimal hf
  · rfl

theorem implied_setDecimal {f : State → State} (hf : f (setDecimal b s) = setDecimal b (f s)) :
    implied d f (setDecimal b s) = onNext (setDecimal b) (implied d f s) := by
  rw [implied, implied, ← advance_setDecimal, hf, baseCycles_setDecimal]

theorem runBranch_setDecimal (taken : Bool) :
    runBranch d taken (setDecimal b s) = onNext (setDecimal b) (runBranch d taken s) := by
  unfold runBranch
  split
  · unfold branch
    split
    · rw [onNext_checked, onNext_checked]
      rfl
    · rw [← advance_setDecimal]
      rfl
  · rfl

end Paths

/-- The branches' tests read a flag other than Decimal (R195 to R202). -/
theorem getFlag_setDecimal {f : Flag} (hf : f ≠ .d) (b : Bool) (s : State) :
    getFlag f (setDecimal b s).p = getFlag f s.p := by
  simp [hf]

/-- Setting Decimal commutes with the rule of every row but the six that copy or write it (R27, R153). -/
theorem run_setDecimal {d : Descriptor} (b : Bool) (s : State)
    (hd : d.mnemonic ∉ [Mnemonic.php, .brk, .plp, .rti, .cld, .sed]) :
    run d (setDecimal b s) = onNext (setDecimal b) (run d s) := by
  obtain ⟨mn, o⟩ := d
  cases mn with
  | adc => exact runRead_setDecimal fun v => addWithCarry_setDecimal b v s
  | sbc => exact runRead_setDecimal fun v => subtractWithBorrow_setDecimal b v s
  | cmp => exact runRead_setDecimal fun v => compare_setDecimal b s.a v s
  | cpx => exact runRead_setDecimal fun v => compare_setDecimal b s.x v s
  | cpy => exact runRead_setDecimal fun v => compare_setDecimal b s.y v s
  | lda => exact runRead_setDecimal fun v => loadA_setDecimal b v s
  | ldx => exact runRead_setDecimal fun v => loadX_setDecimal b v s
  | ldy => exact runRead_setDecimal fun v => loadY_setDecimal b v s
  | and => exact runRead_setDecimal fun v => loadA_setDecimal b (s.a &&& v) s
  | ora => exact runRead_setDecimal fun v => loadA_setDecimal b (s.a ||| v) s
  | eor => exact runRead_setDecimal fun v => loadA_setDecimal b (s.a ^^^ v) s
  | bit => exact runRead_setDecimal fun v => testBits_setDecimal b v s
  | sta => exact runWrite_setDecimal s.a
  | stx => exact runWrite_setDecimal s.x
  | sty => exact runWrite_setDecimal s.y
  | asl => exact runModify_setDecimal decimalInert_shiftLeft
  | lsr => exact runModify_setDecimal decimalInert_shiftRight
  | rol => exact runModify_setDecimal decimalInert_rotateLeft
  | ror => exact runModify_setDecimal decimalInert_rotateRight
  | inc => exact runModify_setDecimal decimalInert_increment
  | dec => exact runModify_setDecimal decimalInert_decrement
  | bcc | bcs | beq | bne | bmi | bpl | bvc | bvs =>
    simp only [run, getFlag_setDecimal (f := .c) (by decide), getFlag_setDecimal (f := .z) (by decide),
      getFlag_setDecimal (f := .n) (by decide), getFlag_setDecimal (f := .v) (by decide)]
    exact runBranch_setDecimal _
  | jmp =>
    simp only [run]
    split <;> rfl
  | jsr =>
    simp only [run]
    split
    · rw [execJsr, execJsr, onNext_checked]
      rfl
    · rfl
  | rts =>
    simp only [run]
    rw [execRts, execRts, onNext_checked]
    rfl
  | pha => exact implied_setDecimal (f := pushA) rfl
  | txs => exact implied_setDecimal (f := fun t => t.setSp t.x) rfl
  | nop => exact implied_setDecimal (f := fun t => t) rfl
  | pla => exact implied_setDecimal (pullA_setDecimal b s)
  | tax => exact implied_setDecimal (loadX_setDecimal b s.a s)
  | tay => exact implied_setDecimal (loadY_setDecimal b s.a s)
  | txa => exact implied_setDecimal (loadA_setDecimal b s.x s)
  | tya => exact implied_setDecimal (loadA_setDecimal b s.y s)
  | tsx => exact implied_setDecimal (loadX_setDecimal b s.sp s)
  | inx => exact implied_setDecimal (loadX_setDecimal b (s.x + 1) s)
  | iny => exact implied_setDecimal (loadY_setDecimal b (s.y + 1) s)
  | dex => exact implied_setDecimal (loadX_setDecimal b (s.x - 1) s)
  | dey => exact implied_setDecimal (loadY_setDecimal b (s.y - 1) s)
  | clc | sec | cli | sei | clv => exact implied_setDecimal (writeFlag_setDecimal (by decide) _ b s)
  | php | brk | plp | rti | cld | sed => simp at hd

/-- Settles O26: every instruction but the six is made of operations that commute with setting Decimal. -/
theorem decimalFlagIsInert : Obligations.DecimalFlagIsInert := by
  intro i s b hd
  have h := run_setDecimal b s hd
  rw [← exec_eq_run, ← exec_eq_run] at h
  refine h.trans ?_
  cases exec i s <;> rfl

end Sys2Proof.Machine
end

section
/-! SUPPORT. The address sums made from PC or from a pulled return address, with `ADDR_OVERFLOW = fault` (R56, R312). -/

namespace Sys2Proof.Machine

/-- A sum past the top is reported (R56, R312). -/
theorem checked_of_overflow {s : State} {sum : Nat} (k : Result) (hf : s.cfg.addrOverflow = .fault) (h : 0xFFFF < sum) :
    checked s sum k = .fault (.unmappedAddress sum) := by
  rw [checked_eq, if_pos ⟨hf, h⟩]

/-- An instruction that falls through past the top reports `PC + bytes`: its effect has moved neither PC nor the parameters. -/
theorem FallsThrough.overflow {d : Descriptor} {s : State} (h : FallsThrough d s) (hf : s.cfg.addrOverflow = .fault)
    (ho : operandFits d.operand s) (hpc : 0xFFFF < s.pc.toNat + d.bytes) :
    run d s = .fault (.unmappedAddress (s.pc.toNat + d.bytes)) := by
  obtain ⟨u, n, hu, -, hr⟩ := h
  rw [hr, operandChecked_of_fits _ ho, advance, checked_of_overflow _ (hu.cfg ▸ hf) (hu.pc ▸ hpc), hu.pc]

/-! ### Branches -/

/-- R138: an instruction with a displacement is a branch (R195 to R202). -/
theorem branchTest_of_rel {d : Descriptor} {disp : Byte} (hd : d.modeOk = true) (ho : d.operand = .rel disp) :
    ∃ f want, branchTest d.mnemonic = some (f, want) := by
  have hm := mode_mem hd
  rw [ho] at hm
  obtain ⟨mn, o⟩ := d
  cases mn with
  | bcc | bcs | beq | bne | bmi | bpl | bvc | bvs => exact ⟨_, _, rfl⟩
  | _ => simp [Mnemonic.modes, Operand.mode] at hm

/-- A branch is taken exactly when the flag it tests has the value it branches on (R194). -/
theorem run_branch {d : Descriptor} {disp : Byte} {f : Flag} {want : Bool} (s : State)
    (ht : branchTest d.mnemonic = some (f, want)) (ho : d.operand = .rel disp) :
    run d s = branch d disp (getFlag f s.p == want) s := by
  obtain ⟨mn, o⟩ := d
  obtain rfl := ho
  cases mn with
  | bcc | bcs | beq | bne | bmi | bpl | bvc | bvs =>
    cases ht
    simp [run, runBranch]
  | _ => cases ht

/-- `PC + 2` past the top is reported whichever way the branch goes (R194). -/
theorem branch_of_next_overflow {d : Descriptor} {disp : Byte} {s : State} (taken : Bool) (ho : d.operand = .rel disp)
    (hf : s.cfg.addrOverflow = .fault) (h : 0xFFFF < s.pc.toNat + 2) :
    branch d disp taken s = .fault (.unmappedAddress (s.pc.toNat + 2)) := by
  have hb : d.bytes = 2 := by rw [Descriptor.bytes, ho]; rfl
  cases taken with
  | true => exact checked_of_overflow _ hf h
  | false => rw [branch, if_neg (by decide), advance, hb, checked_of_overflow _ hf h]

/-- A taken branch whose own address fits reports a target past the top (R132, R194). -/
theorem branch_of_target_overflow {d : Descriptor} {disp : Byte} {s : State} (hf : s.cfg.addrOverflow = .fault)
    (hn : s.pc.toNat + 2 ≤ 0xFFFF) (h : 0xFFFF < (s.pc.toNat : Int) + 2 + disp.toInt) :
    branch d disp true s = .fault (.unmappedAddress ((s.pc.toNat : Int) + 2 + disp.toInt).toNat) := by
  have hnext : (s.pc + 2).toNat = s.pc.toNat + 2 := by bv_omega
  have hsum : branchSum (s.pc + 2) disp = ((s.pc.toNat : Int) + 2 + disp.toInt).toNat := by
    simp only [branchSum, hnext, Nat.cast_add, Nat.cast_ofNat]
  rw [branch, if_pos rfl, checked_of_fits _ (fun _ => hn), hsum, checked_of_overflow _ hf (by omega)]

/-! ### RTS -/

/-- RTS checks the pulled address plus 1 (R193). -/
theorem execRts_of_overflow {s : State} (hf : s.cfg.addrOverflow = .fault) (hl : s.read (stackAddr (s.sp + 1)) = 0xFF)
    (hh : s.read (stackAddr (s.sp + 2)) = 0xFF) : execRts s = .fault (.unmappedAddress 0x10000) := by
  have hl' : s.pullByte = 0xFF := hl
  have hh' : s.pulled.pullByte = 0xFF := by
    rw [show s.sp + 2 = s.sp + 1 + 1 by bv_omega] at hh
    exact hh
  rw [execRts, hl', hh']
  exact checked_of_overflow _ hf (by decide)

/-- Settles O55: what falls through is `FallsThrough.overflow`, and each other sum is the first check of its rule that fails. -/
theorem programCounterPastTopFaults : Obligations.ProgramCounterPastTopFaults := by
  intro s hf
  refine ⟨?fallsThrough, ?next, ?target, ?jsr, ?rts, ?brkTaken, ?brkSkipped⟩
  case fallsThrough =>
    intro i hc ht ho hpc
    rw [exec_eq_run]
    exact (run_fallsThrough s (modeOk_desc i) hc (by simpa using ht)).overflow hf ho hpc
  case next =>
    intro i disp ho hpc
    obtain ⟨f, want, ht⟩ := branchTest_of_rel (modeOk_desc i) ho
    rw [exec_eq_run, run_branch s ht ho, branch_of_next_overflow _ ho hf hpc]
  case target =>
    intro i disp f want ht ho hw hn hsum
    rw [exec_eq_run, run_branch s ht ho, hw, beq_self_eq_true, branch_of_target_overflow hf hn hsum]
  case jsr => exact fun a hpc => checked_of_overflow _ hf hpc
  case rts => exact execRts_of_overflow hf
  case brkTaken =>
    intro hi hpc
    exact (if_neg (by simp [hi])).trans (checked_of_overflow _ hf hpc)
  case brkSkipped =>
    intro hi hpc
    exact (if_pos hi).trans (checked_of_overflow _ hf hpc)

end Sys2Proof.Machine
end

section
/-! SUPPORT. The regions of the reference memory (20_memory.md R57 to R61) as one read-after-write rule and the images of each
region's cells, the stack over it (R64), and the fetch past its top (R56, R316). -/

namespace Sys2Proof.Machine

/-! ### Read after write, and after the host's raw access -/

/-- A stored write is read back at every image of its cell and nowhere else (R51). -/
theorem State.read_write (s : State) {e : Addr} (a : Addr) (v : Byte) (hc : hasCells s.cfg.memoryMap = true)
    (hw : s.mem.wf s.cfg.memoryMap = true) (hs : storable s.cfg.memoryMap e = true) :
    (s.write e v).read a = if cellOf s.cfg.memoryMap a = cellOf s.cfg.memoryMap e then v else s.read a := by
  split
  · next h => exact s.read_write_same v hc hw hs h
  · next h => exact s.read_write_other v hc h

/-- The host's raw access is read back at every image of its cell and nowhere else, wherever it goes (R70). -/
theorem State.read_poke (s : State) (e a : Addr) (v : Byte) (hc : hasCells s.cfg.memoryMap = true)
    (hw : s.mem.wf s.cfg.memoryMap = true) :
    (s.poke e v).read a = if cellOf s.cfg.memoryMap a = cellOf s.cfg.memoryMap e then v else s.read a := by
  simp only [State.read, State.poke, State.setMem_mem, State.setMem_cfg, readAt_of_hasCells hc]
  split
  · next h => rw [h, byteAt_store_same s.mem hw]
  · next h => exact byteAt_store_other s.mem v h

/-! ### The regions of the reference memory -/

/-- A `MemWrite` is stored below Program ROM, and only there (R61). -/
theorem storable_reference (e : Addr) : storable .reference e = decide (e.toNat < 0x8000) := rfl

/-- The images of a RAM address: four, every `$0800` bytes (R58). -/
theorem cellOf_eq_iff_of_ram {e : Addr} (he : e.toNat < 0x2000) (a : Addr) :
    cellOf .reference a = cellOf .reference e ↔ a.toNat < 0x2000 ∧ a.toNat % 0x800 = e.toNat % 0x800 := by
  simp only [cellOf, if_pos he]
  split
  · omega
  · split <;> omega

/-- The images of a PPU register: every eighth address of the window (R59). -/
theorem cellOf_eq_iff_of_ppu {e : Addr} (hlo : 0x2000 ≤ e.toNat) (hhi : e.toNat < 0x4000) (a : Addr) :
    cellOf .reference a = cellOf .reference e ↔
      0x2000 ≤ a.toNat ∧ a.toNat < 0x4000 ∧ a.toNat % 8 = e.toNat % 8 := by
  simp only [cellOf, if_neg (Nat.not_lt.mpr hlo), if_pos hhi]
  split
  · omega
  · split <;> omega

/-- An address from `$4000` up has no image but itself (R60, R61). -/
theorem cellOf_eq_iff_of_direct {e : Addr} (he : 0x4000 ≤ e.toNat) (a : Addr) :
    cellOf .reference a = cellOf .reference e ↔ a = e := by
  rw [← BitVec.toNat_inj]
  simp only [cellOf, if_neg (Nat.not_lt.mpr he), if_neg (show ¬ e.toNat < 0x2000 by omega)]
  split
  · omega
  · split <;> omega

/-- The read-after-write rule on the reference memory: below Program ROM every write is stored (R57, R61). -/
theorem State.read_write_reference {s : State} {e : Addr} (a : Addr) (v : Byte) (hr : s.cfg.memoryMap = .reference)
    (hw : s.mem.wf .reference = true) (he : e.toNat < 0x8000) :
    (s.write e v).read a = if cellOf .reference a = cellOf .reference e then v else s.read a := by
  have h := s.read_write (e := e) a v (by rw [hr]; rfl) (by rwa [hr]) (by rw [hr, storable_reference]; exact decide_eq_true he)
  rwa [hr] at h

/-- Settles O12: what reaches a RAM cell is its four images. -/
theorem ramIsMirroredFourTimes : Obligations.RamIsMirroredFourTimes := by
  intro s e a v hr hw he
  exact (State.read_write_reference a v hr hw (by omega)).trans (if_congr (cellOf_eq_iff_of_ram he a) rfl rfl)

/-- Settles O13: the images of a PPU register repeat every eight bytes of the window. -/
theorem ppuWindowIsEightCells : Obligations.PpuWindowIsEightCells := by
  intro s e a v hr hw hlo hhi
  exact (State.read_write_reference a v hr hw (by omega)).trans (if_congr (cellOf_eq_iff_of_ppu hlo hhi a) rfl rfl)

/-- Settles O14: an address of this region has no image but itself. -/
theorem ioExpansionAndSaveRamAreDirect : Obligations.IoExpansionAndSaveRamAreDirect := by
  intro s e a v hr hw hlo hhi
  exact (State.read_write_reference a v hr hw hhi).trans (if_congr (cellOf_eq_iff_of_direct hlo a) rfl rfl)

/-- In the reference memory a write to Program ROM is discarded (R61). -/
theorem State.write_rom {s : State} {e : Addr} (v : Byte) (hr : s.cfg.memoryMap = .reference) (he : 0x8000 ≤ e.toNat) :
    s.write e v = s :=
  s.write_discarded v (by rw [hr]; rfl) (by rw [hr, storable_reference]; exact decide_eq_false (Nat.not_lt.mpr he))

/-- Settles O15: the bus discards the write, and the raw access reaches the address's own cell. -/
theorem romWriteIsDiscarded : Obligations.RomWriteIsDiscarded := by
  intro s e a v hr hw he
  refine ⟨State.write_rom v hr he, ?_⟩
  rw [s.read_poke e a v (by rw [hr]; rfl) (by rwa [hr]), hr]
  exact if_congr (cellOf_eq_iff_of_direct (by omega) a) rfl rfl

/-! ### The stack -/

/-- `$0100 + SP` as the sum of R64. -/
theorem stackAddr_eq_ofNat (sp : Byte) : stackAddr sp = BitVec.ofNat 16 (0x100 + sp.toNat) := by
  have := stackAddr_toNat sp
  bv_omega

/-- A pull after a push finds the stack pointer where it was (R21, R64). -/
@[simp] theorem State.pulled_push_sp (s : State) (v : Byte) : (s.push v).pulled.sp = s.sp := by
  rw [State.pulled_sp, State.push_sp]
  exact BitVec.sub_add_cancel s.sp 1

/-- A pull after a push gives the byte back, in a memory of cells (R64). -/
theorem State.pullByte_push (s : State) (v : Byte) (hc : hasCells s.cfg.memoryMap = true)
    (hw : s.mem.wf s.cfg.memoryMap = true) : (s.push v).pullByte = v := by
  rw [State.pullByte, ← State.pulled_sp, State.pulled_push_sp, s.read_push_same v hc hw]

/-- Settles O17: the addresses are those of `stackAddr`, and the pull undoes the push. -/
theorem pushThenPull : Obligations.PushThenPull := by
  intro s v a
  have hdec : s.sp - 1 = BitVec.ofNat 8 (s.sp.toNat + 255) := by bv_omega
  have hinc : s.sp + 1 = BitVec.ofNat 8 (s.sp.toNat + 1) := by bv_omega
  refine ⟨?push, ?pullByte, ?pulled, s.pulled_push_sp v, rfl, fun hc hw => ⟨s.pullByte_push v hc hw, fun ha => ?other⟩⟩
  case push => rw [State.push, stackAddr_eq_ofNat, hdec]; rfl
  case pullByte => rw [State.pullByte, stackAddr_eq_ofNat, hinc, BitVec.toNat_ofNat]
  case pulled => rw [State.pulled, hinc]; rfl
  case other => exact s.read_push_other v hc (by rwa [cellOf_stackAddr])

/-! ### The fetch past the top of memory -/

/-- The row an opcode is looked up to has at most three bytes (R90, R94). -/
theorem bytes_le_of_describe {t : InstructionTable} {op : Byte} {r : TableRow} (h : describe t op = some r) :
    r.bytes ≤ 3 := by
  obtain ⟨-, -, hw⟩ := describe_eq_some h
  obtain ⟨-, hl, -⟩ := wellFormed_row hw
  rw [hl]
  obtain h | h | h := length_cases r.mode <;> omega

/-- Settles O11: the first operand address to overflow is `$10000`, and the fetch reports it. -/
theorem fetchPastTopOfMemoryFaults : Obligations.FetchPastTopOfMemoryFaults := by
  intro s r hf hd hpc
  have ho : fetchOverflow s r = some 0x10000 := by rw [fetchOverflow_eq s (bytes_le_of_describe hd), if_pos hpc]
  exact step_of_error (fetch_of_overflow hd hf ho)

end Sys2Proof.Machine
end

section
/-! SUPPORT. What an instruction leaves of memory: one `MemWrite` to each address it stores to, in order (20_memory.md R64, R71;
40_addressing_modes.md R135, R136). None of them reaches Program ROM (R61). -/

namespace Sys2Proof.Machine

/-- `m` is the memory of `s` after one `MemWrite` to each of the addresses, in order. -/
def StoredAt (s : State) (addrs : List Addr) (m : Memory) : Prop :=
  ∃ vs : List Byte, vs.length = addrs.length ∧
    m = (addrs.zip vs).foldl (fun m w => m.writeAt s.cfg.memoryMap w.1 w.2) s.mem

section Stores

variable {s u : State} {m : Memory} {addrs : List Addr}

theorem StoredAt.nothing (h : m = s.mem) : StoredAt s [] m := ⟨[], rfl, h⟩

/-- One more `MemWrite`, after the others. -/
theorem StoredAt.write (h : StoredAt s addrs u.mem) (hc : u.cfg = s.cfg) (e : Addr) (v : Byte) :
    StoredAt s (addrs ++ [e]) (u.write e v).mem := by
  obtain ⟨vs, hl, hm⟩ := h
  refine ⟨vs ++ [v], by simp [hl], ?_⟩
  rw [List.zip_append hl.symm, List.foldl_append, ← hm, State.write_mem, hc]
  rfl

/-- One more push, after the others (R64). -/
theorem StoredAt.push (h : StoredAt s addrs u.mem) (hc : u.cfg = s.cfg) (v : Byte) :
    StoredAt s (addrs ++ [stackAddr u.sp]) (u.push v).mem :=
  h.write hc _ v

end Stores

/-- A trap entry's three pushes are all it does to memory (R317). -/
theorem enterTrap_mem (s : State) (ret : Addr) :
    (enterTrap s ret).mem = (((s.push (page ret)).push (lowByte ret)).push (pushedStatus s.p)).mem := rfl

/-- A completed instruction leaves of memory what it stores at `storedAddrs`, and nothing else (R71, R135, R136). -/
theorem exec_storedAt {i : Instr} {s t : State} (h : exec i s = .next t) : StoredAt s (storedAddrs i s) t.mem := by
  rw [exec_eq_run] at h
  unfold storedAddrs
  generalize i.desc = d at h ⊢
  obtain ⟨mn, o⟩ := d
  have start : StoredAt s [] s.mem := .nothing rfl
  cases mn with
  | adc | sbc | cmp | cpx | cpy | lda | ldx | ldy | and | ora | eor | bit =>
    obtain ⟨v, -, rfl⟩ := runRead_eq_next h
    exact start
  | sta | stx | sty =>
    obtain ⟨m, rfl, rfl⟩ := runWrite_eq_next h
    exact start.write rfl _ _
  | asl | lsr | rol | ror | inc | dec =>
    obtain ⟨rfl, rfl⟩ | ⟨m, rfl, rfl⟩ := runModify_eq_next h
    · exact start
    · exact start.write rfl _ _
  | bcc | bcs | beq | bne | bmi | bpl | bvc | bvs =>
    obtain ⟨target, n, rfl, -⟩ := runBranch_eq_next h
    exact start
  | jmp =>
    obtain ⟨target, rfl⟩ := runJmp_eq_next rfl h
    exact start
  | jsr =>
    simp only [run] at h
    split at h
    · obtain ⟨rfl, -⟩ := execJsr_eq_next h
      exact (start.push rfl _).push rfl _
    · cases h
  | rts =>
    obtain ⟨target, rfl⟩ := execRts_eq_next h
    exact start
  | brk =>
    obtain ⟨hi, rfl⟩ | ⟨hi, rfl, -⟩ := execBrk_eq_next h
    · rw [if_pos hi]
      exact start
    · rw [if_neg (by simp [hi]), show s.sp - 2 = s.sp - 1 - 1 by bv_omega, State.addCyc_mem, enterTrap_mem]
      exact ((start.push rfl _).push rfl _).push rfl _
  | rti =>
    cases h
    exact start
  | pha | php =>
    obtain rfl := implied_eq_next h
    exact start.push rfl _
  | txs =>
    obtain rfl := implied_eq_next (f := fun t => t.setSp t.x) h
    exact start
  | nop =>
    obtain rfl := implied_eq_next (f := fun t => t) h
    exact start
  | pla | plp | tax | tay | txa | tya | tsx | inx | iny | dex | dey | clc | sec | cli | sei | clv | cld | sed =>
    obtain rfl := implied_eq_next h
    exact start

/-- No `MemWrite` of the reference memory changes a byte of Program ROM, wherever it goes (R61, R68). -/
theorem readAt_writeAt_rom (m : Memory) (e : Addr) (v : Byte) {a : Addr} (ha : 0x8000 ≤ a.toNat) :
    (m.writeAt .reference e v).readAt .reference a = m.readAt .reference a := by
  rw [writeAt_of_hasCells rfl, storable_reference]
  split
  · next he =>
    have hne : e ≠ a := fun h => by simp [h, Nat.not_lt.mpr ha] at he
    exact byteAt_store_other m v (mt (cellOf_eq_iff_of_direct (by omega) e).mp hne ∘ Eq.symm)
  · rfl

/-- Nor does any sequence of them. -/
theorem readAt_foldl_writeAt_rom (ws : List (Addr × Byte)) (m : Memory) {a : Addr} (ha : 0x8000 ≤ a.toNat) :
    (ws.foldl (fun m w => m.writeAt .reference w.1 w.2) m).readAt .reference a = m.readAt .reference a := by
  induction ws generalizing m with
  | nil => rfl
  | cons w ws ih => exact (ih _).trans (readAt_writeAt_rom m w.1 w.2 ha)

/-- Settles O16: memory after the instruction is its stores, and no store changes Program ROM. -/
theorem noInstructionChangesRom : Obligations.NoInstructionChangesRom := by
  intro i s t a hr h ha
  obtain ⟨vs, -, hm⟩ := exec_storedAt h
  obtain ⟨-, -, -, -, hcfg⟩ := registersChangeOnlyByTheirWriters i s t h
  rw [State.read, State.read, hcfg, hm, hr]
  exact readAt_foldl_writeAt_rom _ s.mem ha

end Sys2Proof.Machine
end

section
/-! SUPPORT. How an instruction can end: it completes, or an address sum passes `$FFFF` with `ADDR_OVERFLOW = fault`, the
operand's sum being the first that is checked (20_memory.md R56; 60_exceptions.md R310, R312, R320). -/

namespace Sys2Proof.Machine

/-- The result goes on, or reports a sum past the top of memory with `ADDR_OVERFLOW = fault` (R310, R312). -/
def NextOrOverflow (s : State) (r : Result) : Prop :=
  (∃ t, r = .next t) ∨ (s.cfg.addrOverflow = .fault ∧ ∃ sum, 0xFFFF < sum ∧ r = .fault (.unmappedAddress sum))

section Ends

variable {s u : State}

theorem NextOrOverflow.next (t : State) : NextOrOverflow s (.next t) := .inl ⟨t, rfl⟩

theorem NextOrOverflow.checked {r : Result} (h : NextOrOverflow s r) (hc : u.cfg = s.cfg) (sum : Nat) :
    NextOrOverflow s (checked u sum r) := by
  rw [checked_eq, hc]
  split
  · next ho => exact .inr ⟨ho.1, sum, ho.2, rfl⟩
  · exact h

theorem NextOrOverflow.advance (hc : u.cfg = s.cfg) (bytes cycles : Nat) : NextOrOverflow s (advance u bytes cycles) :=
  (NextOrOverflow.next _).checked hc _

theorem NextOrOverflow.operandChecked {r : Result} (h : NextOrOverflow s r) (o : Operand) :
    NextOrOverflow s (operandChecked o s r) := by
  cases o with
  | mem m => exact h.checked rfl _
  | _ => exact h

theorem NextOrOverflow.branch (d : Descriptor) (disp : Byte) (taken : Bool) : NextOrOverflow s (branch d disp taken s) := by
  unfold Machine.branch
  split
  · exact ((NextOrOverflow.next _).checked rfl _).checked rfl _
  · exact .advance rfl _ _

/-- What falls through ends in `advance`, behind its operand's check (R98). -/
theorem FallsThrough.nextOrOverflow {d : Descriptor} (h : FallsThrough d s) : NextOrOverflow s (run d s) := by
  obtain ⟨u, n, hu, -, hr⟩ := h
  rw [hr]
  exact (NextOrOverflow.advance hu.cfg _ _).operandChecked _

end Ends

/-- An operand of mode Absolute is an absolute address (R127). -/
theorem operand_eq_abs {o : Operand} (h : o.mode = .abs) : ∃ a, o = .mem (.abs a) := by
  cases o with
  | mem m =>
    cases m with
    | abs a => exact ⟨a, rfl⟩
    | _ => cases h
  | _ => cases h

/-- R138: control transfer is JMP, absolute or indirect, JSR, and the branches with their displacement. -/
theorem control_cases {d : Descriptor} (hd : d.modeOk = true) (hp : d.mnemonic.path = .control) :
    (∃ a, d = ⟨.jmp, .mem (.abs a)⟩) ∨ (∃ ptr, d = ⟨.jmp, .ind ptr⟩) ∨ (∃ a, d = ⟨.jsr, .mem (.abs a)⟩) ∨
      ∃ disp, d.operand = .rel disp := by
  have hm := mode_mem hd
  obtain ⟨mn, o⟩ := d
  cases mn with
  | jmp =>
    obtain h | h : o.mode = .abs ∨ o.mode = .ind := by simpa [Mnemonic.modes] using hm
    · obtain ⟨a, rfl⟩ := operand_eq_abs h
      exact .inl ⟨a, rfl⟩
    · cases o with
      | ind ptr => exact .inr (.inl ⟨ptr, rfl⟩)
      | mem m => cases m <;> cases h
      | _ => cases h
  | jsr =>
    obtain ⟨a, rfl⟩ := operand_eq_abs (List.mem_singleton.mp hm)
    exact .inr (.inr (.inl ⟨a, rfl⟩))
  | bcc | bcs | beq | bne | bmi | bpl | bvc | bvs =>
    have h : o.mode = .rel := List.mem_singleton.mp hm
    cases o with
    | rel disp => exact .inr (.inr (.inr ⟨disp, rfl⟩))
    | mem m => cases m <;> cases h
    | _ => cases h
  | _ => cases hp

/-- Control transfer checks PC's sums only (R190 to R202). -/
theorem control_nextOrOverflow {d : Descriptor} (s : State) (hd : d.modeOk = true) (hc : d.mnemonic.path = .control) :
    NextOrOverflow s (run d s) := by
  obtain ⟨a, rfl⟩ | ⟨ptr, rfl⟩ | ⟨a, rfl⟩ | ⟨disp, ho⟩ := control_cases hd hc
  · exact .next _
  · exact .next _
  · exact (NextOrOverflow.next _).checked rfl _
  · obtain ⟨f, want, ht⟩ := branchTest_of_rel hd ho
    rw [run_branch s ht ho]
    exact .branch d disp _

/-- BRK and RTS check one sum each, RTI none (R193, R220, R221). -/
theorem trap_nextOrOverflow {d : Descriptor} (s : State) (ht : d.mnemonic ∈ [Mnemonic.brk, .rti, .rts]) :
    NextOrOverflow s (run d s) := by
  obtain ⟨mn, o⟩ := d
  cases mn with
  | brk =>
    change NextOrOverflow s (execBrk s)
    unfold execBrk
    split
    · exact .advance rfl _ _
    · exact (NextOrOverflow.next _).checked rfl _
  | rti => exact .next _
  | rts => exact (NextOrOverflow.next _).checked rfl _
  | _ => simp at ht

/-- Every instruction completes or reports a sum past the top of memory (R310, R312). -/
theorem exec_nextOrOverflow (i : Instr) (s : State) : NextOrOverflow s (exec i s) := by
  rw [exec_eq_run]
  by_cases hc : i.desc.mnemonic.path = .control
  · exact control_nextOrOverflow s (modeOk_desc i) hc
  · by_cases ht : i.desc.mnemonic ∈ [Mnemonic.brk, .rti, .rts]
    · exact trap_nextOrOverflow s ht
    · exact (run_fallsThrough s (modeOk_desc i) hc ht).nextOrOverflow

/-- Settles O52: addresses that wrap rule out the only other end. -/
theorem everyInstructionCompletes : Obligations.EveryInstructionCompletes := by
  intro i s hw
  obtain h | ⟨hf, -⟩ := exec_nextOrOverflow i s
  · exact h
  · simp [hw] at hf

/-! ### The indexed address -/

/-- An absolute address has no index to pass the top with (R127). -/
theorem addrSum_abs (a : Addr) (s : State) : addrSum (.abs a) s = a.toNat := rfl

/-- What falls through checks its operand's sum before its effect and before `PC + bytes` (R56, R71). -/
theorem FallsThrough.operand_overflow {d : Descriptor} {m : MemOperand} {s : State} (h : FallsThrough d s)
    (hf : s.cfg.addrOverflow = .fault) (ho : d.operand = .mem m) (hs : 0xFFFF < addrSum m s) :
    run d s = .fault (.unmappedAddress (addrSum m s)) := by
  obtain ⟨u, n, -, -, hr⟩ := h
  rw [hr, ho]
  exact checked_of_overflow _ hf hs

/-- An operand in memory whose sum passes the top belongs to an instruction that falls through: JMP and JSR add no index. -/
theorem fallsThrough_of_addrSum {d : Descriptor} {m : MemOperand} {s : State} (hd : d.modeOk = true)
    (ho : d.operand = .mem m) (hs : 0xFFFF < addrSum m s) : FallsThrough d s := by
  refine run_fallsThrough s hd (fun hc => ?control) (fun ht => ?trap)
  case control =>
    have habs (a : Addr) (h : m = .abs a) : False := by
      have := a.isLt
      rw [h, addrSum_abs] at hs
      omega
    obtain ⟨a, rfl⟩ | ⟨ptr, rfl⟩ | ⟨a, rfl⟩ | ⟨disp, hrel⟩ := control_cases hd hc
    · exact habs a (by simpa using ho.symm)
    · cases ho
    · exact habs a (by simpa using ho.symm)
    · simp [hrel] at ho
  case trap =>
    have hp : d.mnemonic.path = .none := by
      simp only [List.mem_cons, List.not_mem_nil, or_false] at ht
      obtain h | h | h := ht <;> rw [h] <;> rfl
    simp [operand_of_none hd hp] at ho

/-- Settles O54: such an instruction falls through, and the operand's sum is the first that it checks. -/
theorem indexedAddressPastTopFaults : Obligations.IndexedAddressPastTopFaults := by
  intro i m s hf ho hs
  rw [exec_eq_run]
  exact (fallsThrough_of_addrSum (modeOk_desc i) ho hs).operand_overflow hf ho hs

end Sys2Proof.Machine
end

section
/-! SUPPORT. The decoder and the encoder as one relation between bytes and instructions, under any table (30_encoding.md R90 to
R94): both round trips are read off it, that of the default table because no two of its rows share a pair (R96). -/

namespace Sys2Proof

/-! ### Instructions and operands -/

/-- A mnemonic with an operand selects the instruction that has them, and no other. -/
theorem instr_eq_some_iff {d : Descriptor} {i : Instr} : d.instr = some i ↔ i.desc = d :=
  ⟨desc_of_instr, fun h => h ▸ instr_desc i⟩

theorem desc_injective {i j : Instr} (h : i.desc = j.desc) : i = j :=
  Option.some.inj (by rw [← instr_desc i, h, instr_desc])

/-- An operand assembled from the head of a long enough list has just the bytes that its format takes off the list (R92, R93). -/
theorem ofBytes_bytes_append_drop {mode : Mode} {tail : List Byte} (h : mode.length ≤ tail.length + 1) :
    (Operand.ofBytes mode (tail.getD 0 0) (tail.getD 1 0)).bytes ++ tail.drop (mode.length - 1) = tail := by
  rw [ofBytes_bytes]
  obtain hl | hl | hl := length_cases mode <;> rw [hl] at h ⊢
  · rfl
  · match tail with
    | _ :: _ => rfl
  · match tail with
    | _ :: _ :: _ => rfl
    | [_] => simp at h

/-- An operand read from its own bytes is that operand, whatever follows them (R93). -/
theorem ofBytes_bytes_append (o : Operand) (rest : List Byte) :
    Operand.ofBytes o.mode ((o.bytes ++ rest).getD 0 0) ((o.bytes ++ rest).getD 1 0) = o := by
  have hl := length_operand_bytes o
  exact ofBytes_of_bytes o _ _ (fun _ => List.getD_append _ _ _ _ (by omega)) (fun _ => List.getD_append _ _ _ _ (by omega))

/-! ### The relation -/

/-- An opcode byte and what follows it decode by the row of the opcode, when its operand bytes are all there (R92). -/
theorem decodeWith_cons_eq_ok_iff {t : InstructionTable} {op : Byte} {tail rest : List Byte} {i : Instr} :
    decodeWith t (op :: tail) = .ok (i, rest) ↔
      ∃ r, describe t op = some r ∧ r.bytes ≤ tail.length + 1 ∧
        r.instr (tail.getD 0 0) (tail.getD 1 0) = some i ∧ tail.drop (r.bytes - 1) = rest := by
  cases hd : describe t op with
  | none => simp [decodeWith, hd]
  | some r =>
    simp only [decodeWith, hd, Option.some.injEq, exists_eq_left']
    by_cases hl : tail.length + 1 < r.bytes
    · simp [hl, Nat.not_le.mpr hl]
    · generalize r.instr (tail.getD 0 0) (tail.getD 1 0) = found
      cases found <;> simp [hl, Nat.not_lt.mp hl]

/-- Bytes decode to an instruction and leave `rest` exactly when they are an opcode of its mnemonic and mode, its operand bytes,
and `rest`: the decoder ignores no byte and reserves no operand value (R90 to R94, R97). -/
theorem decodeWith_eq_ok_iff {t : InstructionTable} {bytes rest : List Byte} {i : Instr} :
    decodeWith t bytes = .ok (i, rest) ↔
      ∃ r, describe t r.opcode = some r ∧ r.mnemonic = i.desc.mnemonic ∧ r.mode = i.desc.operand.mode ∧
        bytes = r.opcode :: i.desc.operand.bytes ++ rest := by
  constructor
  case mp =>
    intro h
    cases bytes with
    | nil => simp [decodeWith] at h
    | cons op tail =>
      obtain ⟨r, hd, hl, hi, rfl⟩ := decodeWith_cons_eq_ok_iff.mp h
      obtain ⟨-, rfl, hw⟩ := describe_eq_some hd
      obtain ⟨-, hb, -⟩ := wellFormed_row hw
      have hdesc := desc_of_instr hi
      rw [hb] at hl
      exact ⟨r, hd, by rw [hdesc], by rw [hdesc, ofBytes_mode],
        by rw [hdesc, hb, List.cons_append, ofBytes_bytes_append_drop hl]⟩
  case mpr =>
    rintro ⟨r, hd, hmn, hmode, rfl⟩
    obtain ⟨-, hb, -⟩ := wellFormed_row (describe_eq_some hd).2.2
    have hl := length_operand_bytes i.desc.operand
    rw [List.cons_append]
    refine decodeWith_cons_eq_ok_iff.mpr ⟨r, hd, ?_, ?_, ?_⟩
    · rw [hb, hmode, ← hl, List.length_append]
      omega
    · rw [TableRow.instr, hmn, hmode, ofBytes_bytes_append]
      exact instr_desc i
    · rw [hb, hmode, ← hl, Nat.add_sub_cancel, List.drop_left]

/-- What the encoder gives decodes to the instruction, with what follows it (R90 to R94). -/
theorem decodeWith_encodeWith {t : InstructionTable} {i : Instr} {bytes : List Byte} (h : encodeWith t i = some bytes)
    (rest : List Byte) : decodeWith t (bytes ++ rest) = .ok (i, rest) := by
  obtain ⟨r, hr, rfl⟩ := Option.map_eq_some_iff.mp h
  obtain ⟨hmn, hmode, hd⟩ := rowFor_eq_some hr
  exact decodeWith_eq_ok_iff.mpr ⟨r, hd, hmn, hmode, rfl⟩

/-! ### The default table -/

/-- The default table encodes every instruction (R95, R96). -/
theorem encodeWith_standardTable (i : Instr) : encodeWith standardTable i = some (encode i) := by
  obtain ⟨r, hr⟩ := rowFor_standardTable i
  simp [encode, encodeWith, hr]

/-- No two rows of the default table share a mnemonic and a mode (R96). -/
theorem pairs_standardTable_nodup : (standardTable.map fun r => (r.mnemonic, r.mode)).Nodup := by
  decide +kernel

/-- Every opcode of the default table is the one that encodes the instructions of its row's mnemonic and mode (R91, R96). -/
theorem encode_of_describe {r : TableRow} {i : Instr} (h : describe standardTable r.opcode = some r)
    (hmn : r.mnemonic = i.desc.mnemonic) (hmode : r.mode = i.desc.operand.mode) :
    encode i = r.opcode :: i.desc.operand.bytes := by
  obtain ⟨q, hq, hqmn, hqmode, -, -, he, -⟩ := Laws.TableRow.holds i
  have hrow : q = r := List.inj_on_of_nodup_map pairs_standardTable_nodup (describe_eq_some hq).1 (describe_eq_some h).1
    (by rw [hqmn, hqmode, hmn, hmode])
  rw [he, hrow]

/-- The bytes without a row in the default table are those that are none of its opcodes. -/
theorem describe_standardTable_eq_none_iff (op : Byte) :
    describe standardTable op = none ↔ op ∉ standardTable.map TableRow.opcode := by
  constructor
  case mp =>
    intro h hm
    obtain ⟨r, hr, rfl⟩ := List.mem_map.mp hm
    simp [describe_standardTable hr] at h
  case mpr =>
    intro h
    refine Option.eq_none_iff_forall_ne_some.mpr fun r hr => h ?_
    obtain ⟨hm, rfl, -⟩ := describe_eq_some hr
    exact List.mem_map_of_mem hm

/-! ### The encoding obligations -/

/-- Settles O5: what the encoder gives is related to the instruction, and the default table encodes it. -/
theorem decodeOfEncode : Obligations.DecodeOfEncode := fun i rest _ =>
  ⟨decodeWith_encodeWith (encodeWith_standardTable i) rest, fun _ _ h => decodeWith_encodeWith h rest⟩

/-- Settles O6: the bytes that decode are those of a row of the pair, and the default table has one such row. -/
theorem encodeOfDecode : Obligations.EncodeOfDecode := by
  refine ⟨fun bytes rest i h => ?_, fun t bytes rest i h => decodeWith_eq_ok_iff.mp h⟩
  obtain ⟨r, hd, hmn, hmode, rfl⟩ := decodeWith_eq_ok_iff.mp h
  rw [encode_of_describe hd hmn hmode]
  exact ⟨rfl, modeOk_desc i⟩

/-- Settles O7: the 256 bytes are the 151 opcodes of the table and the 105 listed. -/
theorem illegalOpcodesAreThe105 : Obligations.IllegalOpcodesAreThe105 := by
  have hsplit : ∀ op : Byte, op ∉ standardTable.map TableRow.opcode ↔ op ∈ Machine.illegalOpcodes := by
    decide +kernel
  exact ⟨rfl, fun op => (describe_standardTable_eq_none_iff op).trans (hsplit op)⟩

/-- Settles O4: the decoder computes each of the fifteen words. -/
theorem specWordsDecode : Obligations.SpecWordsDecode :=
  ⟨rfl, rfl, rfl, rfl, rfl, rfl, rfl, rfl, rfl, rfl, rfl, rfl, rfl, rfl, rfl⟩

end Sys2Proof
end

section
/-! SUPPORT. The step by what the table and the decoder say of the bytes at PC (30_encoding.md R94, R97, R98, R311). -/

namespace Sys2Proof.Machine

/-! ### What the step runs -/

/-- The bytes that the fetch leaves out are those the format ignores (R93, R120). -/
theorem ofBytes_operandByte (s : State) {r : TableRow} (hb : r.bytes = r.mode.length) :
    Operand.ofBytes r.mode (operandByte s r 1) (operandByte s r 2) =
      Operand.ofBytes r.mode (s.read (s.pc + 1)) (s.read (s.pc + 2)) := by
  unfold operandByte
  rw [hb]
  cases r.mode <;> rfl

/-- A step at an opcode of the table runs an instruction, or stops at an operand address past the top (R98, R316). -/
theorem step_of_describe {s : State} {r : TableRow} (h : describe s.cfg.table (s.read s.pc) = some r) :
    (∃ i, step s = exec i s) ∨ step s = .fault (.unmappedAddress 0x10000) := by
  by_cases hf : fits s (s.pc.toNat + (r.bytes - 1))
  · obtain ⟨i, hi, -, -⟩ := fetch_of_describe h hf
    exact .inl ⟨i, step_of_fetch hi⟩
  · obtain ⟨ho, hlt⟩ := Classical.not_imp.mp hf
    exact .inr (fetchPastTopOfMemoryFaults s r ho h (Nat.lt_of_not_le hlt))

/-- No instruction's meaning reports an illegal opcode (R311). -/
theorem exec_ne_unsupportedOpcode (i : Instr) (s : State) (op : Byte) : exec i s ≠ .fault (.unsupportedOpcode op) := by
  intro h
  obtain ⟨t, ht⟩ | ⟨-, sum, -, hs⟩ := exec_nextOrOverflow i s
  · simp [h] at ht
  · simp [h] at hs

/-- The one way to `UnsupportedOpcode` is a byte at PC that the lookup finds no row for (R97, R311). -/
theorem step_eq_unsupportedOpcode_iff {s : State} {op : Byte} :
    step s = .fault (.unsupportedOpcode op) ↔ s.read s.pc = op ∧ describe s.cfg.table op = none := by
  constructor
  case mp =>
    intro h
    cases hd : describe s.cfg.table (s.read s.pc) with
    | none =>
      obtain rfl : s.read s.pc = op := by simpa [step_of_error (fetch_of_illegal hd)] using h
      exact ⟨rfl, hd⟩
    | some r =>
      obtain ⟨i, hi⟩ | hf := step_of_describe hd
      · exact absurd (hi.symm.trans h) (exec_ne_unsupportedOpcode i s op)
      · simp [hf] at h
  case mpr =>
    rintro ⟨rfl, hd⟩
    exact step_of_error (fetch_of_illegal hd)

/-! ### The obligations of the step -/

/-- Settles O8: under the default table the bytes without a row are the 105 of O7. -/
theorem illegalOpcodeStopsStep : Obligations.IllegalOpcodeStopsStep := by
  refine fun s op => ⟨step_eq_unsupportedOpcode_iff, fun ht => ?_⟩
  obtain ⟨-, h105⟩ := illegalOpcodesAreThe105
  rw [step_eq_unsupportedOpcode_iff, ht, h105]

/-- Settles O9: the fetch assembles the operand from the same bytes as the decoder. -/
theorem stepRunsDecodedInstruction : Obligations.StepRunsDecodedInstruction := by
  intro s i rest h hf
  obtain ⟨r, hd, hmn, hmode, hbytes⟩ := decodeWith_eq_ok_iff.mp h
  obtain ⟨hop, htail⟩ := List.cons.inj hbytes
  obtain ⟨-, hb, -⟩ := wellFormed_row (describe_eq_some hd).2.2
  rw [← hop] at hd
  obtain ⟨j, hj, hdesc, -⟩ := fetch_of_describe hd (by rwa [hb, hmode])
  have ho : Operand.ofBytes r.mode (s.read (s.pc + 1)) (s.read (s.pc + 2)) = i.desc.operand := by
    have := ofBytes_bytes_append i.desc.operand rest
    rwa [show i.desc.operand.bytes ++ rest = _ from htail.symm, ← hmode] at this
  obtain rfl : j = i := desc_injective (by rw [hdesc, ofBytes_operandByte s hb, ho, hmn])
  exact step_of_fetch hj

/-- Settles O10: the lookup gives a well-formed row, and the fetch makes its instruction. -/
theorem stepTakesItsRowFromTheTable : Obligations.StepTakesItsRowFromTheTable := by
  intro s r hd
  obtain ⟨hm, hop, hw⟩ := describe_eq_some hd
  obtain ⟨-, hl, hp⟩ := wellFormed_row hw
  refine ⟨hm, hop, hl, fun hf => ?_⟩
  obtain ⟨i, hi, hdesc, hb⟩ := fetch_of_describe hd hf
  have hmn : i.desc.mnemonic = r.mnemonic := by rw [hdesc]
  have hmode : i.desc.operand.mode = r.mode := by rw [hdesc, ofBytes_mode]
  exact ⟨i, step_of_fetch hi, hmn, hmode, hb, by rw [Descriptor.pageCross, hmn, hmode, hp],
    baseCycles_of_describe hd hmn.symm hmode.symm⟩

end Sys2Proof.Machine
end

section
/-! SUPPORT. What an instruction that completes adds to CYC, path by path (30_encoding.md R98, R99; 40_addressing_modes.md R134 to
R137). -/

namespace Sys2Proof.Machine

/-! ### CYC by path -/

section Cycles

variable {d : Descriptor} {s t : State}

/-- R134: a read-path mnemonic applies its effect, which leaves CYC alone, to the byte read. -/
theorem run_of_read (hp : d.mnemonic.path = .read) : ∃ f, run d s = runRead d f s ∧ ∀ v, (f v s).cyc = s.cyc := by
  obtain ⟨mn, o⟩ := d
  cases mn with
  | adc | sbc | cmp | cpx | cpy | lda | ldx | ldy | and | ora | eor | bit => exact ⟨_, rfl, fun _ => rfl⟩
  | _ => cases hp

/-- R135: a write-path mnemonic stores a byte. -/
theorem run_of_write (hp : d.mnemonic.path = .write) : ∃ v, run d s = runWrite d v s := by
  obtain ⟨mn, o⟩ := d
  cases mn with
  | sta | stx | sty => exact ⟨_, rfl⟩
  | _ => cases hp

/-- R136: a read-modify-write mnemonic replaces a byte. -/
theorem run_of_modify (hp : d.mnemonic.path = .modify) : ∃ f, run d s = runModify d f s := by
  obtain ⟨mn, o⟩ := d
  cases mn with
  | asl | lsr | rol | ror | inc | dec => exact ⟨_, rfl⟩
  | _ => cases hp

theorem run_cyc_of_read (hp : d.mnemonic.path = .read) (h : run d s = .next t) :
    t.cyc = s.cyc + baseCycles d s + operandPenalty d s := by
  obtain ⟨f, hr, hf⟩ := run_of_read hp
  obtain ⟨v, -, rfl⟩ := runRead_eq_next (hr.symm.trans h)
  simp [hf, Nat.add_assoc]

theorem run_cyc_of_write (hp : d.mnemonic.path = .write) (h : run d s = .next t) : t.cyc = s.cyc + baseCycles d s := by
  obtain ⟨v, hr⟩ := run_of_write hp
  obtain ⟨m, -, rfl⟩ := runWrite_eq_next (hr.symm.trans h)
  simp

theorem run_cyc_of_accumulator (hp : d.mnemonic.path = .modify) (ho : d.operand = .accumulator) (h : run d s = .next t) :
    t.cyc = s.cyc + baseCycles d s := by
  obtain ⟨f, hr⟩ := run_of_modify hp
  obtain ⟨-, rfl⟩ | ⟨m, hm, -⟩ := runModify_eq_next (hr.symm.trans h)
  · simp
  · simp [ho] at hm

theorem run_cyc_of_modify {m : MemOperand} (hp : d.mnemonic.path = .modify) (ho : d.operand = .mem m) (h : run d s = .next t) :
    t.cyc = s.cyc + baseCycles d s + modifyPenalty m s := by
  obtain ⟨f, hr⟩ := run_of_modify hp
  obtain ⟨ha, -⟩ | ⟨m', hm, rfl⟩ := runModify_eq_next (hr.symm.trans h)
  · simp [ho] at ha
  · obtain rfl : m = m' := by simpa [ho] using hm
    simp [Nat.add_assoc]

/-- R99: of the instructions without an operand only BRK can add anything but its base cycles. -/
theorem run_cyc_of_none (hd : d.modeOk = true) (hp : d.mnemonic.path = .none) (hb : d.mnemonic ≠ .brk)
    (h : run d s = .next t) : t.cyc = s.cyc + baseCycles d s := by
  obtain ⟨mn, o⟩ := d
  obtain rfl := operand_of_none hd hp
  cases mn with
  | brk => exact absurd rfl hb
  | rts =>
    obtain ⟨target, rfl⟩ := execRts_eq_next h
    rfl
  | rti =>
    cases h
    rfl
  | pha | php | pla | plp | tax | tay | txa | tya | tsx | txs | inx | iny | dex | dey | clc | sec | cli | sei | clv | cld | sed
  | nop =>
    simp only [run] at h
    obtain rfl := implied_eq_next h
    rfl
  | _ => cases hp

/-! ### The page-cross cycle -/

/-- Only the modes with a 16-bit index can cross a page (R128, R129, R131). -/
theorem mode_of_crossed {m : MemOperand} (h : crossed m s = true) : m.mode = .absx ∨ m.mode = .absy ∨ m.mode = .indy := by
  cases m with
  | absX a => exact .inl rfl
  | absY a => exact .inr (.inl rfl)
  | indY b => exact .inr (.inr rfl)
  | zp b | zpX b | zpY b | abs a | indX b =>
    rw [crossed_of_index_zero rfl] at h
    cases h

/-- R137: the read path pays where its mode's page is crossed. -/
theorem readPenalty_of_read {m : MemOperand} (hp : d.mnemonic.path = .read) (ho : d.operand = .mem m) :
    readPenalty d m s = if crossed m s = true ∧ (m.mode = .absx ∨ m.mode = .absy ∨ m.mode = .indy) then 1 else 0 := by
  simp [readPenalty, Descriptor.pageCross, Mnemonic.paysPageCross, hp, ho, Operand.mode, and_comm]

/-- No read-modify-write mnemonic has one of the other two modes that can cross a page (R138). -/
theorem modes_of_modify (mn : Mnemonic) : mn.path = .modify → Mode.absy ∉ mn.modes ∧ Mode.indy ∉ mn.modes := by
  cases mn <;> decide

/-- R136, R137: so a read-modify-write that crosses a page is an AbsoluteX one. -/
theorem modifyPenalty_of_modify {m : MemOperand} (hd : d.modeOk = true) (hp : d.mnemonic.path = .modify)
    (ho : d.operand = .mem m) :
    modifyPenalty m s = if crossed m s = true ∧ m.mode = .absx ∧ s.cfg.rmwPagePenalty = true then 1 else 0 := by
  have hmode : m.mode ∈ d.mnemonic.modes := by simpa [ho, Operand.mode] using mode_mem hd
  obtain ⟨hy, hi⟩ := modes_of_modify _ hp
  have habsx : crossed m s = true → m.mode = .absx := fun hx => by
    obtain h | h | h := mode_of_crossed hx
    · exact h
    · exact absurd (h ▸ hmode) hy
    · exact absurd (h ▸ hmode) hi
  by_cases hx : crossed m s = true <;> simp [modifyPenalty, hx, habsx]

end Cycles

/-- Settles O21: each path adds its base cycles and its penalty, and the penalty is the cycle stated. -/
theorem pageCrossCyclesByPath : Obligations.PageCrossCyclesByPath := by
  intro i s t hc hb extra
  have hd := modeOk_desc i
  rw [exec_eq_run]
  cases hp : i.desc.mnemonic.path with
  | control => exact absurd hp hc
  | read =>
    have hextra : operandPenalty i.desc s = extra := by
      obtain ⟨v, ho⟩ | ⟨m, ho⟩ := operand_of_read hd hp
      · simp [extra, operandPenalty, ho]
      · simp [extra, operandPenalty, ho, readPenalty_of_read hp ho, hp]
    exact ⟨fun h => hextra ▸ run_cyc_of_read hp h, fun _ => hextra, nofun⟩
  | write =>
    obtain ⟨m, ho⟩ := operand_of_write hd hp
    have hextra : extra = 0 := by simp [extra, ho, hp]
    exact ⟨fun h => hextra ▸ run_cyc_of_write hp h, nofun, nofun⟩
  | modify =>
    obtain ⟨ho, -⟩ | ⟨m, ho⟩ := operand_of_modify hd hp
    · have hextra : extra = 0 := by simp [extra, ho]
      exact ⟨fun h => hextra ▸ run_cyc_of_accumulator hp ho h, nofun, fun m hm => by simp [ho] at hm⟩
    · have hextra : modifyPenalty m s = extra := by simp [extra, ho, modifyPenalty_of_modify hd hp ho, hp]
      exact ⟨fun h => hextra ▸ run_cyc_of_modify hp ho h, nofun, fun m' hm _ => by
        obtain rfl : m = m' := by simpa [ho] using hm
        exact hextra⟩
  | none =>
    have hextra : extra = 0 := by simp [extra, operand_of_none hd hp]
    exact ⟨fun h => hextra ▸ run_cyc_of_none hd hp hb h, nofun, nofun⟩

end Sys2Proof.Machine
end

section
/-! SUPPORT. The addressing modes as arithmetic on their operand, their index and their pointer (40_addressing_modes.md R124 to
R133), and the bytes an instruction's stores leave alone (R135, R136). -/

namespace Sys2Proof.Machine

/-! ### Base and index -/

/-- The effective address is its un-reduced sum modulo 65536 (R56). -/
theorem effAddr_toNat (m : MemOperand) (s : State) : (effAddr m s).toNat = addrSum m s % 65536 :=
  add_zext16_toNat _ _

/-- Without an index the base itself is the effective address (R124 to R127, R130). -/
theorem effAddr_of_index_zero {m : MemOperand} {s : State} (h : (baseAndIndex m s).2 = 0) :
    effAddr m s = (baseAndIndex m s).1 := by
  simp [effAddr, h, zext16]

/-- The page is crossed where the low byte of the base carries (R128, R129, R131). -/
theorem crossed_iff (m : MemOperand) (s : State) :
    crossed m s = true ↔ 255 < (baseAndIndex m s).1.toNat % 256 + (baseAndIndex m s).2.toNat := by
  rw [crossed, bne_iff_ne]
  exact page_add_ne_iff _ _

/-- No page crossing, no penalty (R99, R137). -/
theorem readPenalty_of_not_crossed (d : Descriptor) {m : MemOperand} {s : State} (h : crossed m s = false) :
    readPenalty d m s = 0 := by
  simp [readPenalty, h]

/-! ### The zero-page modes -/

/-- An index in page zero wraps within the page (R125, R126). -/
theorem zext16_add_toNat (b x : Byte) : (zext16 (b + x)).toNat = (b.toNat + x.toNat) % 256 := by
  rw [zext16_toNat, BitVec.toNat_add]

/-- R126, R138: only LDX and STX have a ZeroPageY form. -/
theorem eq_ldx_or_stx_of_zpy (mn : Mnemonic) : Mode.zpy ∈ mn.modes → mn = .ldx ∨ mn = .stx := by
  cases mn <;> decide

/-- Settles O18: the three bases lie in page zero and have no 16-bit index, so no page is crossed. -/
theorem zeroPageModesWrapInPageZero : Obligations.ZeroPageModesWrapInPageZero := by
  intro s b
  have hzp : crossed (.zp b) s = false := crossed_of_index_zero rfl
  have hzpX : crossed (.zpX b) s = false := crossed_of_index_zero rfl
  have hzpY : crossed (.zpY b) s = false := crossed_of_index_zero rfl
  refine ⟨?zp, hzp, ?zpX, hzpX, ?zpY, hzpY, fun d => ?penalty, fun i ho => ?users⟩
  case zp =>
    rw [effAddr_of_index_zero rfl]
    exact zext16_toNat b
  case zpX =>
    rw [effAddr_of_index_zero rfl]
    exact zext16_add_toNat b s.x
  case zpY =>
    rw [effAddr_of_index_zero rfl]
    exact zext16_add_toNat b s.y
  case penalty =>
    exact ⟨readPenalty_of_not_crossed d hzp, readPenalty_of_not_crossed d hzpX, readPenalty_of_not_crossed d hzpY⟩
  case users =>
    have hm := mode_mem (modeOk_desc i)
    rw [ho] at hm
    exact eq_ldx_or_stx_of_zpy _ hm

/-! ### The absolute modes -/

/-- Settles O19: the base is the operand, and the index is X, Y or none. -/
theorem absoluteModesCarryIntoThePage : Obligations.AbsoluteModesCarryIntoThePage := fun s a =>
  ⟨effAddr_of_index_zero rfl, crossed_of_index_zero rfl, effAddr_toNat (.absX a) s, effAddr_toNat (.absY a) s,
    crossed_iff (.absX a) s, crossed_iff (.absY a) s⟩

/-! ### The indirect modes -/

theorem zext16_eq_ofNat (b : Byte) : zext16 b = BitVec.ofNat 16 b.toNat := by
  have := zext16_toNat b
  bv_omega

/-- Where a pointer's second byte lies, under both values of `ZP_POINTER_WRAP` (R130, R131, D8). -/
theorem pointerHighAddr_eq_ofNat (s : State) (zp : Byte) :
    pointerHighAddr s zp = BitVec.ofNat 16 (if s.cfg.zpPointerWrap then (zp.toNat + 1) % 256 else zp.toNat + 1) := by
  unfold pointerHighAddr
  split
  · rw [zext16_eq_ofNat, BitVec.toNat_add]
    rfl
  · rw [zext16_eq_ofNat, BitVec.ofNat_add]
    rfl

/-- A zero-page pointer, low byte first (R130, R131). -/
theorem zeroPagePointer_toNat (s : State) (zp : Byte) :
    (zeroPagePointer s zp).toNat = (s.read (BitVec.ofNat 16 zp.toNat)).toNat + 256 *
      (s.read (BitVec.ofNat 16 (if s.cfg.zpPointerWrap then (zp.toNat + 1) % 256 else zp.toNat + 1))).toNat := by
  rw [zeroPagePointer, hiLo_toNat, pointerHighAddr_eq_ofNat, zext16_eq_ofNat]

/-- Settles O20: IndirectX indexes the pointer's own address and IndirectY the pointer. -/
theorem indirectModesReadZeroPagePointers : Obligations.IndirectModesReadZeroPagePointers := by
  intro s b second pointer
  have hptr : ∀ zp : Byte, (zeroPagePointer s zp).toNat = pointer zp.toNat := zeroPagePointer_toNat s
  refine ⟨?indX, crossed_of_index_zero rfl, ?indY, ?crossedY⟩
  case indX =>
    rw [effAddr_of_index_zero rfl, ← BitVec.toNat_add]
    exact hptr (b + s.x)
  case indY =>
    rw [← hptr b]
    exact effAddr_toNat (.indY b) s
  case crossedY =>
    rw [← hptr b]
    exact crossed_iff (.indY b) s

/-- R133, R138: only JMP has an Indirect form. -/
theorem eq_jmp_of_ind (mn : Mnemonic) : Mode.ind ∈ mn.modes → mn = .jmp := by
  cases mn <;> decide

/-- R133: JMP indirect is the one instruction with an Indirect operand. -/
theorem eq_jmpInd_of_operand {i : Instr} {ptr : Addr} (ho : i.desc.operand = .ind ptr) : i = .jmpInd ptr := by
  have hm := mode_mem (modeOk_desc i)
  rw [ho] at hm
  have hd : i.desc = ⟨.jmp, .ind ptr⟩ := by rw [← eq_jmp_of_ind _ hm, ← ho]
  exact desc_injective hd

/-- R133: the high byte of the target lies in the pointer's page, one byte on modulo 256. -/
theorem indirectHighAddr_eq (ptr : Addr) :
    indirectHighAddr ptr = hiLo (page ptr) (BitVec.ofNat 8 ((ptr.toNat % 256 + 1) % 256)) := by
  have hlow : lowByte ptr + 1 = BitVec.ofNat 8 ((ptr.toNat % 256 + 1) % 256) := by
    have := lowByte_toNat ptr
    bv_omega
  rw [indirectHighAddr, hlow]

/-- R133: the target of JMP indirect, low byte first. -/
theorem indirectTarget_toNat (ptr : Addr) (s : State) :
    (indirectTarget ptr s).toNat = (s.read ptr).toNat +
      256 * (s.read (hiLo (page ptr) (BitVec.ofNat 8 ((ptr.toNat % 256 + 1) % 256)))).toNat := by
  rw [indirectTarget, hiLo_toNat, indirectHighAddr_eq]

/-- Settles O30: JMP indirect, the one user of the mode, jumps to `indirectTarget` at its base cycles. -/
theorem indirectTargetStaysInThePointersPage : Obligations.IndirectTargetStaysInThePointersPage := fun ptr s =>
  ⟨fun _ => eq_jmpInd_of_operand, _, rfl, rfl, indirectTarget_toNat ptr s⟩

/-! ### Memory outside an instruction's stores -/

/-- In a memory of cells a sequence of `MemWrite`s leaves alone every address that is no image of theirs (R51). -/
theorem readAt_foldl_writeAt_other {s : State} {a : Addr} (hc : hasCells s.cfg.memoryMap = true) (ws : List (Addr × Byte))
    (m : Memory) (h : ∀ w ∈ ws, cellOf s.cfg.memoryMap a ≠ cellOf s.cfg.memoryMap w.1) :
    (ws.foldl (fun m w => m.writeAt s.cfg.memoryMap w.1 w.2) m).readAt s.cfg.memoryMap a = m.readAt s.cfg.memoryMap a := by
  induction ws generalizing m with
  | nil => rfl
  | cons w ws ih =>
    obtain ⟨hw, hws⟩ := List.forall_mem_cons.mp h
    exact (ih _ hws).trans ((s.setMem m).read_write_other w.2 hc hw)

/-- Settles O59: memory after the instruction is its stores, and a store reaches the images of its address alone. -/
theorem memoryChangesOnlyWhereStored : Obligations.MemoryChangesOnlyWhereStored := by
  intro i s t h
  obtain ⟨vs, hl, hm⟩ := exec_storedAt h
  refine ⟨⟨vs, hl, hm⟩, fun hc a ha => ?_⟩
  obtain ⟨-, -, -, -, hcfg⟩ := registersChangeOnlyByTheirWriters i s t h
  rw [State.read, State.read, hcfg, hm]
  exact readAt_foldl_writeAt_other hc _ s.mem fun w hw => ha w.1 (List.of_mem_zip hw).1

end Sys2Proof.Machine
end

section
/-! SUPPORT. Addition, subtraction and comparison as arithmetic (41_arithmetic_compare.md R150 to R158). -/

namespace Sys2Proof.Machine

/-! ### A read-path instruction that runs clear -/

/-- R98, R134: what such an instruction leaves of the state is its effect on the operand value, then the end of the step. -/
theorem exec_of_read {i : Instr} {s u : State} {v : Byte} {f : Byte → State → State} (hr : run i.desc s = runRead i.desc f s)
    (hu : f v s = u) (hv : operandValue i.desc.operand s = some v) (hc : runsClear i s) (hpc : u.pc = s.pc)
    (hcfg : u.cfg = s.cfg) (hcyc : u.cyc = s.cyc) :
    exec i s = .next { u with pc := nextPc i s, cyc := s.cyc + baseCycles i.desc s + operandPenalty i.desc s } := by
  subst hu
  obtain ⟨ho, hn⟩ := hc
  rw [exec_eq_run, hr, runRead_of_fits hv hpc hcfg ho hn, Nat.add_assoc, ← hcyc]
  rfl

/-! ### Results and flags as arithmetic -/

/-- The order of a list of flags does not matter, and a longer list promises less. -/
theorem FlagsKept.mono {fs gs : List Flag} {p q : Byte} (h : FlagsKept fs p q) (hs : fs ⊆ gs) : FlagsKept gs p q :=
  fun f hf => h f fun hm => hf (hs hm)

/-- R150: V is set exactly where the signed sum leaves the range of a byte. -/
theorem addOverflow_iff (a v p : Byte) :
    (a.msb == v.msb && (BitVec.ofNat 8 (addSum a v p)).msb != a.msb) = true ↔
      a.toInt + v.toInt + carryBit p < -128 ∨ 127 < a.toInt + v.toInt + carryBit p := by
  have ha := a.isLt
  have hv := v.isLt
  have hc := carryBit_le_one p
  simp only [Bool.and_eq_true, beq_iff_eq, bne_iff_ne, ne_eq, msb_eq_decide_ge, decide_eq_decide, BitVec.toNat_ofNat,
    BitVec.toInt_eq_toNat_cond, addSum]
  split <;> split <;> omega

/-- R151: the byte a subtraction leaves is the un-reduced difference modulo 256. -/
theorem ofInt_subDiff_toNat (a v p : Byte) : ((BitVec.ofInt 8 (subDiff a v p)).toNat : Int) = subDiff a v p % 256 := by
  rw [BitVec.toNat_ofInt]
  omega

/-! ### ADC and SBC -/

/-- Settles O22: the effect is `addWithCarry`, and its result and flags are those of the un-reduced sum. -/
theorem adcResult : Obligations.AdcResult := by
  intro i s v hmn hv hc
  have hV := getFlag_addFlags .v s.a v s.p
  refine ⟨BitVec.ofNat 8 (addSum s.a v s.p), addFlags s.a v s.p, ?run, BitVec.toNat_ofNat .., getFlag_addFlags .c .., hV, ?range,
    (getFlag_addFlags .z ..).trans (beq_eq_decide ..), (getFlag_addFlags .n ..).trans (msb_eq_decide_ge _),
    (flagsKept_addFlags s.a v s.p).mono (by decide)⟩
  case run => exact exec_of_read (f := addWithCarry) (by simp only [run, hmn]) rfl hv hc rfl rfl rfl
  case range =>
    rw [hV]
    exact addOverflow_iff s.a v s.p

/-- Settles O23: the effect is `subtractWithBorrow`, and its result and flags are those of the un-reduced difference. -/
theorem sbcResult : Obligations.SbcResult := by
  intro i s v hmn hv hc
  refine ⟨BitVec.ofInt 8 (subDiff s.a v s.p), subFlags s.a v s.p, ?_, ofInt_subDiff_toNat s.a v s.p, getFlag_subFlags .c ..,
    getFlag_subFlags .v .., (getFlag_subFlags .z ..).trans (beq_eq_decide ..), (getFlag_subFlags .n ..).trans (msb_eq_decide_ge _),
    (flagsKept_subFlags s.a v s.p).mono (by decide)⟩
  exact exec_of_read (f := subtractWithBorrow) (by simp only [run, hmn]) rfl hv hc rfl rfl rfl

/-! ### SBC as ADC of the complement -/

/-- The complement as R151 writes it is the bitwise one. -/
theorem xor_ff_eq_not (v : Byte) : v ^^^ 0xFF = ~~~v := BitVec.xor_allOnes

/-- R151: the difference with `v` is the sum with the complement of `v`, less 256. -/
theorem subDiff_eq (a v p : Byte) : subDiff a v p = (addSum a (v ^^^ 0xFF) p : Int) - 256 := by
  have := v.isLt
  rw [subDiff, addSum, xor_ff_eq_not, BitVec.toNat_not]
  omega

/-- So both leave the same byte. -/
theorem ofInt_subDiff_eq (a v p : Byte) : BitVec.ofInt 8 (subDiff a v p) = BitVec.ofNat 8 (addSum a (v ^^^ 0xFF) p) := by
  apply BitVec.eq_of_toNat_eq
  have := ofInt_subDiff_toNat a v p
  rw [subDiff_eq] at this
  rw [BitVec.toNat_ofNat, subDiff_eq]
  omega

/-- And the same flags: the carry out of the sum is the absence of a borrow, and the complement has the opposite sign. -/
theorem subFlags_eq (a v p : Byte) : subFlags a v p = addFlags a (v ^^^ 0xFF) p := by
  have hcarry : decide (0 ≤ subDiff a v p) = decide (255 < addSum a (v ^^^ 0xFF) p) := by
    rw [subDiff_eq, decide_eq_decide]
    omega
  have hsign : (a.msb != v.msb) = (a.msb == (v ^^^ 0xFF).msb) := by
    rw [xor_ff_eq_not, BitVec.msb_not]
    cases a.msb <;> simp
  simp only [subFlags, addFlags, ofInt_subDiff_eq, hcarry, hsign]

/-- R151, the spec's derived law, of the effects. -/
theorem subtractWithBorrow_eq (v : Byte) (s : State) : subtractWithBorrow v s = addWithCarry (v ^^^ 0xFF) s := by
  rw [subtractWithBorrow, addWithCarry, ofInt_subDiff_eq, subFlags_eq]

/-- Settles O24: the effects are the same, and the end of the step differs in its cycles only. -/
theorem sbcIsAdcOfComplement : Obligations.SbcIsAdcOfComplement := by
  intro v s
  change advance (subtractWithBorrow v s) 2 (baseCycles (Instr.sbcImm v).desc s) =
    onNext (fun t => { t with cyc := s.cyc + baseCycles (Instr.sbcImm v).desc s })
      (advance (addWithCarry (v ^^^ 0xFF) s) 2 (baseCycles (Instr.adcImm (v ^^^ 0xFF)).desc s))
  rw [subtractWithBorrow_eq, advance, advance, onNext_checked]
  rfl

/-! ### CMP, CPX and CPY -/

/-- R152: N is the sign of the difference modulo 256. -/
theorem msb_sub (r v : Byte) : (r - v).msb = decide (128 ≤ (r.toNat + 256 - v.toNat) % 256) := by
  rw [msb_eq_decide_ge, decide_eq_decide]
  bv_omega

/-- Settles O25: each of the three writes the status of comparing its register, and nothing else. -/
theorem compareResult : Obligations.CompareResult := by
  intro i s v reg hmn hv hc
  refine ⟨compareFlags reg v s.p, ?_, getFlag_compareFlags .c .., (getFlag_compareFlags .z ..).trans (beq_eq_decide ..),
    (getFlag_compareFlags .n ..).trans (msb_sub reg v), flagsKept_compareFlags reg v s.p⟩
  obtain ⟨hmn, rfl⟩ | ⟨hmn, rfl⟩ | ⟨hmn, rfl⟩ := hmn
  · exact exec_of_read (f := compareA) (by simp only [run, hmn]) rfl hv hc rfl rfl rfl
  · exact exec_of_read (f := compareX) (by simp only [run, hmn]) rfl hv hc rfl rfl rfl
  · exact exec_of_read (f := compareY) (by simp only [run, hmn]) rfl hv hc rfl rfl rfl

end Sys2Proof.Machine
end

section
/-! SUPPORT. The shifts and rotates as arithmetic (42_shift_rotate.md R170, R175), and what a read-modify-write instruction that
runs clear leaves of the state (40_addressing_modes.md R122, R136). -/

namespace Sys2Proof.Machine

/-! ### A read-modify-write instruction that runs clear -/

section Modify

variable {i : Instr} {s : State} {f : Byte → Byte → Byte × Byte}

/-- R122, R175: A and P take the new byte and the new status, then the end of the step. -/
theorem exec_of_modifyA (hr : run i.desc s = runModify i.desc f s) (ho : i.desc.operand = .accumulator) (hc : runsClear i s) :
    exec i s = .next { s with
      a := (f s.a s.p).1, p := (f s.a s.p).2, pc := nextPc i s, cyc := s.cyc + baseCycles i.desc s } := by
  obtain ⟨-, hn⟩ := hc
  simp only [exec_eq_run, hr, runModify, ho, modifyA_of_fits hn]
  rfl

/-- R136: the new byte is written to the address read and P takes the new status, then the end of the step. -/
theorem exec_of_modifyMem {m : MemOperand} (hr : run i.desc s = runModify i.desc f s) (ho : i.desc.operand = .mem m)
    (hc : runsClear i s) :
    exec i s = .next { s.write (effAddr m s) (f (s.read (effAddr m s)) s.p).1 with
      p := (f (s.read (effAddr m s)) s.p).2, pc := nextPc i s, cyc := s.cyc + baseCycles i.desc s + modifyPenalty m s } := by
  obtain ⟨hm, hn⟩ := hc
  rw [ho] at hm
  rw [exec_eq_run, hr, runModify_of_fits ho hm hn, Nat.add_assoc]
  rfl

end Modify

/-! ### The shifts and rotates as arithmetic -/

/-- R170, R175: `r` is the byte that `mn` makes of `v` under the status `p`, and `q` the status that it leaves. -/
def ShiftsTo (mn : Mnemonic) (v p r q : Byte) : Prop :=
  r.toNat = shiftedByte mn v.toNat (carryBit p) ∧
  getFlag .c q = shiftedOut mn v.toNat ∧
  getFlag .z q = decide (r = 0) ∧ getFlag .n q = decide (128 ≤ r.toNat) ∧ FlagsKept [.c, .z, .n] p q

/-- All four write C from the bit shifted out, then Z and N from the new byte. -/
theorem shiftsTo_setZN_setC {mn : Mnemonic} {v p r : Byte} {c : Bool} (hr : r.toNat = shiftedByte mn v.toNat (carryBit p))
    (hc : c = shiftedOut mn v.toNat) : ShiftsTo mn v p r (setZN r (setFlag .c c p)) :=
  ⟨hr, by simpa using hc, by simp [beq_eq_decide], by simp [msb_eq_decide_ge], flagsKept_setZN_setC r c p⟩

/-- R175: each of the four mnemonics replaces a byte, by its own shift. -/
theorem run_of_shift {d : Descriptor} (h : d.mnemonic ∈ [Mnemonic.asl, .lsr, .rol, .ror]) (s : State) :
    ∃ f : Byte → Byte → Byte × Byte,
      run d s = runModify d f s ∧ ∀ v p, ShiftsTo d.mnemonic v p (f v p).1 (f v p).2 := by
  obtain ⟨mn, o⟩ := d
  cases mn with
  | asl => exact ⟨shiftLeft, rfl, fun v p =>
      have ⟨hbyte, _, _, _⟩ := shift_toNat v p
      shiftsTo_setZN_setC hbyte (getLsbD_seven v)⟩
  | lsr => exact ⟨shiftRight, rfl, fun v p =>
      have ⟨_, hbyte, _, _⟩ := shift_toNat v p
      shiftsTo_setZN_setC hbyte (getLsbD_zero v)⟩
  | rol => exact ⟨rotateLeft, rfl, fun v p =>
      have ⟨_, _, hbyte, _⟩ := shift_toNat v p
      shiftsTo_setZN_setC hbyte (getLsbD_seven v)⟩
  | ror => exact ⟨rotateRight, rfl, fun v p =>
      have ⟨_, _, _, hbyte⟩ := shift_toNat v p
      shiftsTo_setZN_setC hbyte (getLsbD_zero v)⟩
  | _ => simp at h

/-! ### ASL, LSR, ROL and ROR -/

/-- Settles O27: the new byte and status are those of the mnemonic's shift of A. -/
theorem shiftAccumulatorResult : Obligations.ShiftAccumulatorResult := by
  intro i s hmn ho hc
  obtain ⟨f, hr, hf⟩ := run_of_shift hmn s
  exact ⟨_, _, exec_of_modifyA hr ho hc, hf s.a s.p⟩

/-- Settles O28: the new byte and status are those of the mnemonic's shift of the byte read. -/
theorem shiftMemoryResult : Obligations.ShiftMemoryResult := by
  intro i m s hmn ho hc
  obtain ⟨f, hr, hf⟩ := run_of_shift hmn s
  exact ⟨_, _, exec_of_modifyMem hr ho hc, hf (s.read (effAddr m s)) s.p⟩

end Sys2Proof.Machine
end

section
/-! SUPPORT. Control transfer as arithmetic on PC, SP and the bytes pushed and pulled (43_control_transfer.md R190 to R203;
40_addressing_modes.md R132, R133). -/

namespace Sys2Proof.Machine

/-! ### Addresses from their bytes -/

theorem hiLo_eq_ofNat (h l : Byte) : hiLo h l = BitVec.ofNat 16 (l.toNat + 256 * h.toNat) := by
  rw [← hiLo_toNat, BitVec.ofNat_toNat, BitVec.setWidth_eq]

/-- The high byte of an address `n` bytes on, modulo 65536 (R7). -/
theorem page_add_ofNat (a : Addr) (n : Nat) :
    page (a + BitVec.ofNat 16 n) = BitVec.ofNat 8 ((a.toNat + n) % 65536 / 256) := by
  have := page_toNat (a + BitVec.ofNat 16 n)
  bv_omega

/-- The low byte of an address `n` bytes on (R7). -/
theorem lowByte_add_ofNat (a : Addr) (n : Nat) :
    lowByte (a + BitVec.ofNat 16 n) = BitVec.ofNat 8 ((a.toNat + n) % 256) := by
  have := lowByte_toNat (a + BitVec.ofNat 16 n)
  bv_omega

/-! ### JMP -/

/-- R133: the address of the target's high byte, as a number. -/
theorem indirectHighAddr_eq_ofNat (ptr : Addr) :
    indirectHighAddr ptr = BitVec.ofNat 16 (ptr.toNat / 256 * 256 + (ptr.toNat % 256 + 1) % 256) := by
  rw [indirectHighAddr, hiLo_eq_ofNat, page_toNat, BitVec.toNat_add, lowByte_toNat, Nat.add_comm, Nat.mul_comm]
  rfl

/-- Settles O29: the indirect form jumps to `indirectTarget`, whose high byte stands at `indirectHighAddr`. -/
theorem jmpResult : Obligations.JmpResult := by
  intro a s
  refine ⟨rfl, ?indirect⟩
  case indirect =>
    rw [← indirectHighAddr_eq_ofNat, ← hiLo_eq_ofNat]
    rfl

/-! ### JSR and RTS -/

/-- Two pushes in a memory of cells: the first byte stands at the higher stack cell (R64). -/
theorem State.read_push_push (s : State) (hi lo : Byte) (hc : hasCells s.cfg.memoryMap = true)
    (hw : s.mem.wf s.cfg.memoryMap = true) :
    ((s.push hi).push lo).read (stackAddr s.sp) = hi ∧ ((s.push hi).push lo).read (stackAddr (s.sp - 1)) = lo := by
  have hne : s.sp ≠ (s.push hi).sp := by
    rw [State.push_sp]
    bv_omega
  constructor
  · rw [(s.push hi).read_push_stack lo hc hne, s.read_push_same hi hc hw]
  · exact (s.push hi).read_push_same lo hc (s.wf_push hi hw)

/-- R192: where PC + 2 fits, JSR changes memory by its two pushes, SP, PC and CYC. -/
theorem execJsr_of_fits (a : Addr) {s : State} (h : fits s (s.pc.toNat + 2)) :
    execJsr a s = .next { s with
      mem := ((s.push (page (s.pc + 2))).push (lowByte (s.pc + 2))).mem, sp := s.sp - 2, pc := a,
      cyc := s.cyc + baseCycles (Instr.jsr a).desc s } := by
  have hsp : s.sp - 2 = s.sp - 1 - 1 := by bv_omega
  rw [hsp]
  exact checked_of_fits _ h

/-- R193: RTS continues one past the address whose low and high byte stand at the two cells above SP. -/
theorem execRts_of_fits {s : State} {ret : Addr} (hlo : s.read (stackAddr (s.sp + 1)) = lowByte ret)
    (hhi : s.read (stackAddr (s.sp + 2)) = page ret) (h : fits s (ret.toNat + 1)) :
    execRts s = .next { s with pc := ret + 1, sp := s.sp + 2, cyc := s.cyc + baseCycles Instr.rts.desc s } := by
  have hsp : s.sp + 2 = s.sp + 1 + 1 := by bv_omega
  rw [hsp] at hhi ⊢
  have hret : hiLo s.pulled.pullByte s.pullByte = ret := by
    rw [← hiLo_page_lowByte ret, ← hlo, ← hhi]
    rfl
  rw [execRts, hret]
  exact checked_of_fits _ h

/-- Settles O31: the bytes pushed are those of PC + 2, and the second push leaves the first one's cell alone. -/
theorem jsrResult : Obligations.JsrResult := by
  intro a s h hi lo m
  have hhi : page (s.pc + 2) = hi := page_add_ofNat s.pc 2
  have hlo : lowByte (s.pc + 2) = lo := lowByte_add_ofNat s.pc 2
  refine ⟨?exec, s.read_push_push hi lo⟩
  case exec =>
    have hjsr := execJsr_of_fits a h
    rwa [hhi, hlo] at hjsr

/-- Settles O32: the two bytes pulled are those of the address they make. -/
theorem rtsResult : Obligations.RtsResult := by
  intro s lo hi h
  rw [← hiLo_toNat] at h
  have hret : hiLo hi lo + 1 = BitVec.ofNat 16 (lo.toNat + 256 * hi.toNat + 1) := by
    rw [hiLo_eq_ofNat]
    exact (BitVec.ofNat_add (lo.toNat + 256 * hi.toNat) 1).symm
  rw [← hret]
  exact execRts_of_fits (lowByte_hiLo hi lo).symm (page_hiLo hi lo).symm h

/-- Settles O33: the two cells hold the bytes of PC + 2, and RTS continues one past it. -/
theorem rtsReturnsAfterJsr : Obligations.RtsReturnsAfterJsr := by
  intro a s t w hc hw hjsr hcfg hsp hhi hlo hf
  obtain ⟨rfl, -⟩ := execJsr_eq_next hjsr
  obtain ⟨hpushedHi, hpushedLo⟩ := s.read_push_push (page (s.pc + 2)) (lowByte (s.pc + 2)) hc hw
  simp only [State.addCyc_cfg, State.setPc_cfg, State.push_cfg, State.addCyc_sp, State.setPc_sp, State.push_sp,
    State.read_addCyc, State.read_setPc, hpushedHi, hpushedLo] at hcfg hsp hhi hlo
  have hsp1 : w.sp + 1 = s.sp - 1 := by bv_omega
  have hsp2 : w.sp + 2 = s.sp := by bv_omega
  have hpc : s.pc + 3 = s.pc + 2 + 1 := by bv_omega
  have hfits : fits w ((s.pc + 2).toNat + 1) := fun hfault => by
    have := hf (hcfg ▸ hfault)
    bv_omega
  rw [hpc, ← hsp2]
  exact execRts_of_fits (hsp1 ▸ hlo) (hsp2 ▸ hhi) hfits

/-! ### Branches -/

/-- A branch not taken falls through (R194). -/
theorem branch_of_not_taken {d : Descriptor} {disp : Byte} {s : State} (ho : d.operand = .rel disp)
    (h : fits s (s.pc.toNat + 2)) :
    branch d disp false s = .next { s with pc := s.pc + 2, cyc := s.cyc + baseCycles d s } := by
  have hb : d.bytes = 2 := by rw [Descriptor.bytes, ho]; rfl
  rw [branch, if_neg (by decide), hb]
  exact advance_of_fits h

/-- A taken branch goes to `next + disp` where both sums fit, and pays for it (R194). -/
theorem branch_of_taken {d : Descriptor} {disp : Byte} {s : State} (hn : fits s (s.pc.toNat + 2))
    (ht : fits s (branchSum (s.pc + 2) disp)) :
    branch d disp true s = .next { s with
      pc := s.pc + 2 + sext16 disp,
      cyc := s.cyc + (baseCycles d s + 1 + if page (s.pc + 2 + sext16 disp) != page (s.pc + 2) then 1 else 0) } := by
  rw [branch, if_pos rfl, checked_of_fits _ hn, checked_of_fits _ ht]
  rfl

/-- The branch target, the displacement read as two's complement (R132). -/
theorem branchTarget_toNat (pc : Addr) (disp : Byte) :
    ((pc + 2 + sext16 disp).toNat : Int) = ((pc.toNat : Int) + 2 + disp.toInt) % 65536 := by
  have hdisp := sext16_toNat disp
  have hnext : (pc + 2).toNat = (pc.toNat + 2) % 65536 := BitVec.toNat_add pc 2
  rw [BitVec.toNat_add, hnext]
  omega

/-- The sum that a taken branch checks is no larger than the one taken of PC without wrapping. -/
theorem branchSum_le (pc : Addr) (disp : Byte) : branchSum (pc + 2) disp ≤ ((pc.toNat : Int) + 2 + disp.toInt).toNat := by
  have : (pc + 2).toNat ≤ pc.toNat + 2 := by bv_omega
  simp only [branchSum]
  omega

/-- One cycle for a taken branch, and one for another page than that of `next` (R194). -/
theorem branchCycles_eq (pc target : Addr) :
    (1 + if page target != page (pc + 2) then 1 else 0) =
      if target.toNat / 256 = (pc.toNat + 2) % 65536 / 256 then 1 else 2 := by
  have hpage : page target = page (pc + 2) ↔ target.toNat / 256 = (pc.toNat + 2) % 65536 / 256 := by
    rw [← BitVec.toNat_inj, page_toNat, page_toNat, BitVec.toNat_add]
    rfl
  by_cases h : page target = page (pc + 2)
  · rw [if_pos (hpage.mp h), if_neg (by simp [h])]
  · rw [if_neg (mt hpage.mpr h), if_pos (bne_iff_ne.mpr h)]

/-- Settles O34: the branch is taken exactly when the flag has the value it tests for, and its checked sum fits. -/
theorem branchResult : Obligations.BranchResult := by
  intro i s f want disp htest ho hn
  rw [exec_eq_run, run_branch s htest ho]
  constructor
  · intro hne
    rw [beq_false_of_ne hne]
    exact branch_of_not_taken ho hn
  · intro heq hsum
    have ht : fits s (branchSum (s.pc + 2) disp) := fun hf => (branchSum_le s.pc disp).trans (hsum hf)
    refine ⟨s.pc + 2 + sext16 disp, branchTarget_toNat s.pc disp, ?_⟩
    rw [heq, beq_self_eq_true, branch_of_taken hn ht, Nat.add_assoc (baseCycles i.desc s), branchCycles_eq, Nat.add_assoc]

end Sys2Proof.Machine
end

section
/-! SUPPORT. The software interrupt, the return from it and the stack instructions over the stack protocol (44_stack_system.md R220
to R225; 60_exceptions.md R317, R318; 20_memory.md R64). -/

namespace Sys2Proof.Machine

/-! ### An Implied instruction that runs clear -/

/-- R98, R121: what such an instruction leaves of the state is its effect, then the end of the step. -/
theorem exec_of_implied {i : Instr} {s u : State} {f : State → State} (hr : run i.desc s = implied i.desc f s) (hu : f s = u)
    (hc : runsClear i s) (hpc : u.pc = s.pc) (hcfg : u.cfg = s.cfg) (hcyc : u.cyc = s.cyc) :
    exec i s = .next { u with pc := nextPc i s, cyc := s.cyc + baseCycles i.desc s } := by
  subst hu
  obtain ⟨-, hn⟩ := hc
  rw [exec_eq_run, hr, implied_of_fits hpc hcfg hn, ← hcyc]
  rfl

/-! ### BRK and RTI -/

/-- Three pushes in a memory of cells stand at three stack cells, one below the other (R64). -/
theorem State.read_push_push_push (s : State) (hi lo v : Byte) (hc : hasCells s.cfg.memoryMap = true)
    (hw : s.mem.wf s.cfg.memoryMap = true) :
    let m := ((s.push hi).push lo).push v
    m.read (stackAddr s.sp) = hi ∧ m.read (stackAddr (s.sp - 1)) = lo ∧ m.read (stackAddr (s.sp - 2)) = v := by
  have hsp : ((s.push hi).push lo).sp = s.sp - 2 := by
    rw [State.push_sp, State.push_sp]
    bv_omega
  have hother {k : Byte} (hk : k ≠ s.sp - 2) := ((s.push hi).push lo).read_push_stack v hc (hsp ▸ hk)
  obtain ⟨hhi, hlo⟩ := s.read_push_push hi lo hc hw
  refine ⟨(hother (by bv_omega)).trans hhi, (hother (by bv_omega)).trans hlo, ?_⟩
  rw [← hsp]
  exact State.read_push_same _ v hc ((s.push hi).wf_push lo (s.wf_push hi hw))

/-- Three pushes leave everything above the mirrors alone, the BRK vector among it. -/
theorem State.read_push_push_push_high (s : State) (hi lo v : Byte) {a : Addr} (hc : hasCells s.cfg.memoryMap = true)
    (ha : 0x4000 ≤ a.toNat) : (((s.push hi).push lo).push v).read a = s.read a :=
  calc (((s.push hi).push lo).push v).read a
    _ = ((s.push hi).push lo).read a := ((s.push hi).push lo).read_push_high v hc ha
    _ = (s.push hi).read a := (s.push hi).read_push_high lo hc ha
    _ = s.read a := s.read_push_high hi hc ha

/-- R220: with I clear and PC + 1 in range, BRK is the trap entry with that return address (D5). -/
theorem execBrk_of_taken {s : State} (hi : getFlag .i s.p = false) (h : fits s (s.pc.toNat + 1)) :
    execBrk s = .next ((enterTrap s (s.pc + 1)).addCyc (baseCycles Instr.brk.desc s)) := by
  rw [execBrk, hi]
  exact checked_of_fits _ h

/-- R220: with I set, BRK is the end of a step alone (D4, D6). -/
theorem execBrk_of_skipped {s : State} (hi : getFlag .i s.p = true) (h : fits s (s.pc.toNat + s.cfg.brkLength)) :
    execBrk s = .next ((s.setPc (s.pc + BitVec.ofNat 16 s.cfg.brkLength)).addCyc s.cfg.brkSkippedCycles) := by
  rw [execBrk, hi]
  exact advance_of_fits h

/-- Settles O35: the bytes pushed are those of PC + 1 and the status, and no push reaches the vector. -/
theorem brkTakenEntersTheTrap : Obligations.BrkTakenEntersTheTrap := by
  intro s hI h hi lo m
  have hhi : page (s.pc + 1) = hi := page_add_ofNat s.pc 1
  have hlo : lowByte (s.pc + 1) = lo := lowByte_add_ofNat s.pc 1
  refine ⟨setFlag .i true s.p, ?exec, by simp, (flagsKept_setFlag .i true s.p).mono (by decide), fun hc hw => ?cells⟩
  case exec =>
    have hbrk := execBrk_of_taken hI h
    rwa [enterTrap_eq, hhi, hlo] at hbrk
  case cells =>
    obtain ⟨hhiCell, hloCell, hpCell⟩ := s.read_push_push_push hi lo (s.p ||| 0x10) hc hw
    exact ⟨hhiCell, hloCell, hpCell, s.read_push_push_push_high hi lo _ hc (by decide),
      s.read_push_push_push_high hi lo _ hc (by decide)⟩

/-- Settles O36: the skipped BRK is the end of a step alone. -/
theorem brkSkippedWhileInterruptsDisabled : Obligations.BrkSkippedWhileInterruptsDisabled :=
  fun _ hI h => execBrk_of_skipped hI h

/-- Settles O37: RTI is the trap return, which forces Unused on in the pulled status. -/
theorem rtiResult : Obligations.RtiResult := by
  intro s
  refine ⟨rtiStatus (s.read (stackAddr (s.sp + 1))), ?exec, by simp, fun f hu _ => by simp [hu]⟩
  case exec =>
    change execRti s = _
    rw [execRti, leaveTrap_eq]
    rfl

/-! ### PHA, PHP, PLA and PLP -/

/-- Settles O39: each of the two is a push, of A or of the status with Break forced on. -/
theorem pushInstructionsResult : Obligations.PushInstructionsResult := by
  intro i s v hi hc
  refine ⟨?exec, s.read_push_same v⟩
  case exec =>
    obtain ⟨rfl, rfl⟩ | ⟨rfl, rfl⟩ := hi
    · exact exec_of_implied (f := pushA) rfl rfl hc rfl rfl rfl
    · exact exec_of_implied (f := pushP) rfl rfl hc rfl rfl rfl

/-- Z and N of a byte, and no other flag (R8, R9). -/
theorem setZN_flags (v p : Byte) :
    getFlag .z (setZN v p) = decide (v = 0) ∧ getFlag .n (setZN v p) = decide (128 ≤ v.toNat) ∧
      FlagsKept [.z, .n] p (setZN v p) :=
  ⟨by simp [beq_eq_decide], by simp [msb_eq_decide_ge], flagsKept_setZN v p⟩

/-- R224: PLA loads A, Z and N from the byte at the cell above SP. -/
theorem execPla_of_runsClear {s : State} {v : Byte} (hv : s.read (stackAddr (s.sp + 1)) = v) (hc : runsClear .pla s) :
    exec .pla s = .next { s with
      a := v, p := setZN v s.p, sp := s.sp + 1, pc := nextPc .pla s, cyc := s.cyc + baseCycles Instr.pla.desc s } := by
  subst hv
  exact exec_of_implied (f := pullA) rfl rfl hc rfl rfl rfl

/-- Settles O40: PLA takes Z and N from the byte pulled, PLP the status that R225 makes of it. -/
theorem pullInstructionsResult : Obligations.PullInstructionsResult := by
  intro s
  refine ⟨fun hc => ⟨_, execPla_of_runsClear rfl hc, setZN_flags _ s.p⟩, fun hc => ?plp⟩
  case plp =>
    refine ⟨plpStatus (s.read (stackAddr (s.sp + 1))), ?_, by simp, by simp, fun f hb hu => by simp [hb, hu]⟩
    exact exec_of_implied (f := pullP) rfl rfl hc rfl rfl rfl

/-- Settles O41: the cell above the SP that PHA leaves holds the pushed accumulator. -/
theorem plaRestoresPushedAccumulator : Obligations.PlaRestoresPushedAccumulator := by
  intro s t w hc hw hpha _ hsp hcell hclear
  obtain rfl := implied_eq_next hpha
  have hpushed : w.read (stackAddr s.sp) = s.a := hcell.trans (s.read_push_same s.a hc hw)
  have hspBack : w.sp + 1 = s.sp := by
    rw [hsp]
    exact BitVec.sub_add_cancel s.sp 1
  rw [← hspBack] at hpushed ⊢
  exact ⟨_, execPla_of_runsClear hpushed hclear, setZN_flags s.a w.p⟩

end Sys2Proof.Machine
end

section
/-! SUPPORT. The loads, the stores and the transfers (45_load_store_transfer.md R240 to R251; 40_addressing_modes.md R134, R135). -/

namespace Sys2Proof.Machine

/-! ### Loads -/

/-- R240 to R242: each of the three mnemonics loads its own register with the operand value, and Z and N from it. -/
theorem run_of_load {d : Descriptor} (h : d.mnemonic ∈ [Mnemonic.lda, .ldx, .ldy]) (s : State) :
    ∃ f : Byte → State → State, run d s = runRead d f s ∧ ∀ v, f v s = { s with
      a := if d.mnemonic = .lda then v else s.a
      x := if d.mnemonic = .ldx then v else s.x
      y := if d.mnemonic = .ldy then v else s.y
      p := setZN v s.p } := by
  obtain ⟨mn, o⟩ := d
  cases mn with
  | lda => exact ⟨loadA, rfl, fun _ => rfl⟩
  | ldx => exact ⟨loadX, rfl, fun _ => rfl⟩
  | ldy => exact ⟨loadY, rfl, fun _ => rfl⟩
  | _ => simp at h

/-- Settles O42: the effect on the operand value is the mnemonic's load. -/
theorem loadResult : Obligations.LoadResult := by
  intro i s v hmn hv hc
  obtain ⟨f, hr, hf⟩ := run_of_load hmn s
  exact ⟨_, exec_of_read hr (hf v) hv hc rfl rfl rfl, setZN_flags v s.p⟩

/-! ### Stores -/

/-- R98, R135: what a write-path instruction that runs clear leaves of the state is its `MemWrite`, then the end of the step. -/
theorem exec_of_write {i : Instr} {m : MemOperand} {s : State} {v : Byte} (hr : run i.desc s = runWrite i.desc v s)
    (ho : i.desc.operand = .mem m) (hc : runsClear i s) :
    exec i s = .next { s.write (effAddr m s) v with pc := nextPc i s, cyc := s.cyc + baseCycles i.desc s } := by
  obtain ⟨hm, hn⟩ := hc
  rw [ho] at hm
  rw [exec_eq_run, hr, runWrite_of_fits ho hm hn]
  rfl

/-- Settles O43: each of the three mnemonics stores its own register. -/
theorem storeResult : Obligations.StoreResult := by
  intro i m s v hmn ho hc
  refine exec_of_write ?_ ho hc
  obtain ⟨hmn, rfl⟩ | ⟨hmn, rfl⟩ | ⟨hmn, rfl⟩ := hmn
  · simp only [run, hmn]
  · simp only [run, hmn]
  · simp only [run, hmn]

/-! ### Transfers -/

/-- R246 to R250: each of the five copies its source to its target, and takes Z and N from it. -/
theorem run_of_transfer {i : Instr} (hi : i ∈ [Instr.tax, .tay, .txa, .tya, .tsx]) (s : State) {v : Byte}
    (hv : v = if i = .txa then s.x else if i = .tya then s.y else if i = .tsx then s.sp else s.a) :
    ∃ f : State → State, run i.desc s = implied i.desc f s ∧ f s = { s with
      a := if i = .txa ∨ i = .tya then v else s.a
      x := if i = .tax ∨ i = .tsx then v else s.x
      y := if i = .tay then v else s.y
      p := setZN v s.p } := by
  subst hv
  simp only [List.mem_cons, List.not_mem_nil, or_false] at hi
  obtain rfl | rfl | rfl | rfl | rfl := hi
  · exact ⟨fun t => loadX t.a t, rfl, rfl⟩
  · exact ⟨fun t => loadY t.a t, rfl, rfl⟩
  · exact ⟨fun t => loadA t.x t, rfl, rfl⟩
  · exact ⟨fun t => loadA t.y t, rfl, rfl⟩
  · exact ⟨fun t => loadX t.sp t, rfl, rfl⟩

/-- Settles O44: the effect is the instruction's copy, with the flags of the byte copied. -/
theorem transferResult : Obligations.TransferResult := by
  intro i s hi hc
  obtain ⟨f, hr, hf⟩ := run_of_transfer hi s rfl
  exact ⟨_, _, rfl, exec_of_implied hr hf hc rfl rfl rfl, setZN_flags _ s.p⟩

/-- Settles O45: the effect writes SP alone. -/
theorem txsChangesNoFlag : Obligations.TxsChangesNoFlag :=
  fun _ hc => exec_of_implied (f := fun t => t.setSp t.x) rfl rfl hc rfl rfl rfl

end Sys2Proof.Machine
end

section
/-! SUPPORT. Logic, the bit test, increments and decrements, the flag instructions and NOP (46_logic_incdec_flags.md R270 to R287;
40_addressing_modes.md R136, R137). -/

namespace Sys2Proof.Machine

/-! ### AND, ORA and EOR -/

/-- R270 to R272: each of the three loads A with its bitwise combination of A and the operand value. -/
theorem run_of_logic {d : Descriptor} (h : d.mnemonic ∈ [Mnemonic.and, .ora, .eor]) (s : State) :
    ∃ op : Byte → Byte → Byte, run d s = runRead d (fun v t => loadA (op t.a v) t) s ∧
      ∀ a v k, (op a v).getLsbD k =
        if d.mnemonic = .and then a.getLsbD k && v.getLsbD k
        else if d.mnemonic = .ora then a.getLsbD k || v.getLsbD k
        else a.getLsbD k != v.getLsbD k := by
  obtain ⟨mn, o⟩ := d
  cases mn with
  | and => exact ⟨(· &&& ·), rfl, fun _ _ _ => BitVec.getLsbD_and⟩
  | ora => exact ⟨(· ||| ·), rfl, fun _ _ _ => BitVec.getLsbD_or⟩
  | eor => exact ⟨(· ^^^ ·), rfl, fun _ _ _ => BitVec.getLsbD_xor⟩
  | _ => simp at h

/-- Settles O46: the effect loads A with the mnemonic's combination, and Z and N from it. -/
theorem logicResult : Obligations.LogicResult := by
  intro i s v hmn hv hc
  obtain ⟨op, hr, hbit⟩ := run_of_logic hmn s
  exact ⟨op s.a v, _, exec_of_read hr rfl hv hc rfl rfl rfl, fun k _ => hbit s.a v k, setZN_flags _ s.p⟩

/-! ### BIT -/

/-- R137, R138: neither mode of BIT takes the page-cross cycle. -/
theorem paysPageCross_bit : ∀ mode ∈ Mnemonic.bit.modes, Mnemonic.bit.paysPageCross mode = false := by
  decide

/-- Where the row does not take the page-cross cycle, the read path pays nothing beyond its base cycles (R137). -/
theorem operandPenalty_of_not_pageCross {d : Descriptor} (h : d.pageCross = false) (s : State) : operandPenalty d s = 0 := by
  unfold operandPenalty
  split
  · simp [readPenalty, h]
  all_goals rfl

theorem operandPenalty_bit {i : Instr} (hmn : i.desc.mnemonic = .bit) (s : State) : operandPenalty i.desc s = 0 := by
  apply operandPenalty_of_not_pageCross
  have hmode := mode_mem (modeOk_desc i)
  rw [hmn] at hmode
  rw [Descriptor.pageCross, hmn]
  exact paysPageCross_bit _ hmode

/-- Settles O47: the effect writes `bitFlags` alone, and neither mode of BIT has a penalty cycle. -/
theorem bitResult : Obligations.BitResult := by
  intro i s v hmn hv hc
  refine ⟨bitFlags s.a v s.p, ?exec, (getFlag_bitFlags .z ..).trans (beq_eq_decide ..),
    (getFlag_bitFlags .v ..).trans (getLsbD_six v), (getFlag_bitFlags .n ..).trans (getLsbD_seven v),
    flagsKept_bitFlags s.a v s.p⟩
  case exec =>
    have hread := exec_of_read (f := testBits) (by simp only [run, hmn]) rfl hv hc rfl rfl rfl
    rwa [operandPenalty_bit hmn] at hread

/-! ### INC, DEC, INX, INY, DEX and DEY -/

/-- One less modulo 256 is 255 more (R7). -/
theorem sub_one_toNat (v : Byte) : (v - 1).toNat = (v.toNat + 255) % 256 := by
  bv_omega

/-- R274, R275: INC and DEC replace a byte by the next or the previous one, and set Z and N from it. -/
theorem run_of_incDec {d : Descriptor} {k : Nat} (h : d.mnemonic = .inc ∧ k = 1 ∨ d.mnemonic = .dec ∧ k = 255) (s : State) :
    ∃ f : Byte → Byte, run d s = runModify d (fun v p => (f v, setZN (f v) p)) s ∧
      ∀ v, (f v).toNat = (v.toNat + k) % 256 := by
  obtain ⟨mn, o⟩ := d
  obtain ⟨rfl, rfl⟩ | ⟨rfl, rfl⟩ := h
  · exact ⟨(· + 1), rfl, fun v => BitVec.toNat_add v 1⟩
  · exact ⟨(· - 1), rfl, sub_one_toNat⟩

/-- Settles O48: the new byte is the mnemonic's neighbour of the byte read, and the status takes Z and N from it. -/
theorem incDecMemoryResult : Obligations.IncDecMemoryResult := by
  intro i m s k hmn ho hc
  obtain ⟨f, hr, hf⟩ := run_of_incDec hmn s
  exact ⟨_, _, exec_of_modifyMem hr ho hc, hf (s.read (effAddr m s)), setZN_flags _ s.p⟩

/-- R276 to R279: each of the four loads its register with the next or the previous byte, and Z and N from it. -/
theorem run_of_incDecRegister {i : Instr} (hi : i ∈ [Instr.inx, .iny, .dex, .dey]) (s : State) :
    ∃ (f : State → State) (r : Byte), run i.desc s = implied i.desc f s ∧
      f s = { s with
        x := if i = .inx ∨ i = .dex then r else s.x
        y := if i = .iny ∨ i = .dey then r else s.y
        p := setZN r s.p } ∧
      r.toNat = ((if i = .inx ∨ i = .dex then s.x.toNat else s.y.toNat) +
        if i = .inx ∨ i = .iny then 1 else 255) % 256 := by
  simp only [List.mem_cons, List.not_mem_nil, or_false] at hi
  obtain rfl | rfl | rfl | rfl := hi
  · exact ⟨fun t => loadX (t.x + 1) t, s.x + 1, rfl, rfl, BitVec.toNat_add s.x 1⟩
  · exact ⟨fun t => loadY (t.y + 1) t, s.y + 1, rfl, rfl, BitVec.toNat_add s.y 1⟩
  · exact ⟨fun t => loadX (t.x - 1) t, s.x - 1, rfl, rfl, sub_one_toNat s.x⟩
  · exact ⟨fun t => loadY (t.y - 1) t, s.y - 1, rfl, rfl, sub_one_toNat s.y⟩

/-- Settles O49: the effect loads the instruction's register with its neighbour, and Z and N from that. -/
theorem incDecRegisterResult : Obligations.IncDecRegisterResult := by
  intro i s hi hc
  obtain ⟨f, r, hr, hf, hnat⟩ := run_of_incDecRegister hi s
  exact ⟨r, _, exec_of_implied hr hf hc rfl rfl rfl, hnat, setZN_flags r s.p⟩

/-! ### Flag instructions and NOP -/

/-- R280 to R286: a flag instruction writes the flag and the value that `flagSetting` gives its mnemonic. -/
theorem run_of_flagSetting {d : Descriptor} {f : Flag} {b : Bool} (h : flagSetting d.mnemonic = some (f, b)) (s : State) :
    run d s = implied d (writeFlag f b) s := by
  obtain ⟨mn, o⟩ := d
  cases mn with
  | clc | sec | cli | sei | clv | cld | sed =>
    cases h
    rfl
  | _ => cases h

/-- Settles O50: the effect writes the one flag. -/
theorem flagInstructionResult : Obligations.FlagInstructionResult := by
  intro i s f b h hc
  exact ⟨setFlag f b s.p, exec_of_implied (run_of_flagSetting h s) rfl hc rfl rfl rfl, by simp, flagsKept_setFlag f b s.p⟩

/-- Settles O51: the effect leaves the state alone. -/
theorem nopResult : Obligations.NopResult :=
  fun _ hc => exec_of_implied (f := fun t => t) rfl rfl hc rfl rfl rfl

end Sys2Proof.Machine
end

section
/-! SUPPORT. How an executed instruction stops, and the trap return after a trap entry (60_exceptions.md R310, R312, R316, R319). -/

namespace Sys2Proof.Machine

/-- Settles O53: the two ends of `exec` are a next state and a checked sum that passes the top. -/
theorem executionStopsOnlyOnAddressOverflow : Obligations.ExecutionStopsOnlyOnAddressOverflow :=
  exec_nextOrOverflow

/-! ### BRK, then RTI -/

/-- R317: in a memory of cells the return address and the status stand at the three cells that a trap entry pushed to. -/
theorem read_enterTrap_stack (s : State) (ret : Addr) (hc : hasCells s.cfg.memoryMap = true)
    (hw : s.mem.wf s.cfg.memoryMap = true) :
    let t := enterTrap s ret
    t.read (stackAddr s.sp) = page ret ∧ t.read (stackAddr (s.sp - 1)) = lowByte ret ∧
      t.read (stackAddr (s.sp - 2)) = pushedStatus s.p :=
  s.read_push_push_push (page ret) (lowByte ret) (pushedStatus s.p) hc hw

/-- R221, R318: RTI takes P from the first cell above SP and continues at the address whose low and high byte stand above it. -/
theorem execRti_of_cells {s : State} {v : Byte} {ret : Addr} (hv : s.read (stackAddr (s.sp + 1)) = v)
    (hlo : s.read (stackAddr (s.sp + 2)) = lowByte ret) (hhi : s.read (stackAddr (s.sp + 3)) = page ret) :
    execRti s = .next { s with
      p := rtiStatus v, pc := ret, sp := s.sp + 3, cyc := s.cyc + baseCycles Instr.rti.desc s } := by
  rw [execRti, leaveTrap_eq, hv, hlo, hhi, hiLo_page_lowByte]
  rfl

/-- R28, R221: the status that BRK pushes and RTI pulls keeps every flag but the two that they force on. -/
theorem flagsKept_rtiStatus_pushedStatus (p : Byte) : FlagsKept [.b, .u] p (rtiStatus (pushedStatus p)) := by
  intro f hf
  obtain ⟨hb, hu⟩ : f ≠ .b ∧ f ≠ .u := by simpa using hf
  rw [getFlag_rtiStatus, if_neg hu, getFlag_pushedStatus, if_neg hb]

/-- Settles O38: the three cells hold the status and the bytes of PC + 1 that the trap entry pushed, and RTI takes them back. -/
theorem rtiReturnsAfterBrk : Obligations.RtiReturnsAfterBrk := by
  intro s t w hI hc hw hbrk _ hsp hcells
  obtain ⟨hset, -⟩ | ⟨-, rfl, -⟩ := execBrk_eq_next hbrk
  · simp [hI] at hset
  · simp only [List.forall_mem_cons, State.read_addCyc] at hcells
    obtain ⟨hhi, hlo, hp, -⟩ := hcells
    obtain ⟨hpushedHi, hpushedLo, hpushedP⟩ := read_enterTrap_stack s (s.pc + 1) hc hw
    rw [State.addCyc_sp, enterTrap_eq] at hsp
    have hsp1 : w.sp + 1 = s.sp - 2 := by bv_omega
    have hsp2 : w.sp + 2 = s.sp - 1 := by bv_omega
    have hsp3 : w.sp + 3 = s.sp := by bv_omega
    have hrti := execRti_of_cells (hsp1 ▸ hp.trans hpushedP) (hsp2 ▸ hlo.trans hpushedLo) (hsp3 ▸ hhi.trans hpushedHi)
    rw [hsp3] at hrti
    exact ⟨_, hrti, flagsKept_rtiStatus_pushedStatus s.p, by simp⟩

end Sys2Proof.Machine
end

section
/-! SUPPORT. What `Reset(init)` makes of the observable registers (70_reset_and_hazards.md R350; 10_state.md R34). -/

namespace Sys2Proof.Machine

/-- R350: the observable registers after a reset are the record it was given, but for Unused in its status. -/
@[simp] theorem State.outputs_resetTo (s : State) (init : ResetInit) :
    (s.resetTo init).outputs = { init with p := resetStatus init.p } := rfl

/-- Settles O1: the registers are those of the record with `resetStatus` of its P, and a reset writes no other field. -/
theorem resetLoadsSevenRegisters : Obligations.ResetLoadsSevenRegisters :=
  fun s init => ⟨s.outputs_resetTo init, s.resetTo_mem init, s.resetTo_cfg init⟩

end Sys2Proof.Machine
end
